-- ==== Sys2Proof/Word.lean ====
section
/-! DEFINITION. The two word types of the core: the byte of a register or a memory cell, and the 16-bit word of
SP, PC, a register pair or an address (10_state.md R20, R23, R24; 00_scope.md R5). -/

namespace Sys2Proof

/-- An 8-bit value: a register, a memory cell, a port number or an immediate byte (00_scope.md R5, `XLEN_DATA`). -/
abbrev Byte := BitVec 8

/-- A 16-bit value: SP, PC, a register pair or a memory address (00_scope.md R5, `XLEN_ADDR`). -/
abbrev Word := BitVec 16

end Sys2Proof
end

