-- ==== Sys2Proof/Config.lean ====
section
/-! DEFINITION. The implementation parameters of 00_scope.md R5 that a rule of the spec reads, with the value each
takes on this hardware, and the two free values: the byte a port read returns and the interrupt source's choice
(92_eei_decisions.md O2, O3). -/

namespace Sys2Proof

/-- The named parameters of 00_scope.md R5 (widths and sizes are in the types). -/
structure Config where
  /-- `SUB_BORROW_FLAG`: the value Carry takes when a subtraction borrows (R5, R142; 90_conflicts.md C1). -/
  subBorrowFlag : Bool
  /-- `LOGIC_CLEARS_CY`: whether the six logic instructions clear Carry (R5, R143). -/
  logicClearsCy : Bool
  /-- `RESET_PC`: PC after reset, the entry point (R5, R352). -/
  resetPc : Word
  /-- `VECTOR_STRIDE`: interrupt vector n is at `VECTOR_STRIDE * n` (R5, R316). -/
  vectorStride : Nat
  /-- `N_VECTORS`: how many values an interrupt's vector index has, 0 up to it (R5, R13, R314). -/
  nVectors : Nat
  /-- `EI_DELAY`: the instructions between EI and the first boundary at which an interrupt can be accepted (R5, R276). -/
  eiDelay : Nat
  /-- `UNIMPLEMENTED`: the opcode bytes that fault (R5, R93, R300). -/
  unimplemented : List Byte
deriving DecidableEq, Repr

/-- The values this hardware takes (00_scope.md R5; 92_eei_decisions.md D1, D3, D6, D7, D10, D12). -/
@[reducible] def Config.hardware : Config where
  subBorrowFlag := true
  logicClearsCy := false
  resetPc := 0x0000
  vectorStride := 8
  nVectors := 8
  eiDelay := 0
  unimplemented := [0x08, 0x10, 0x18, 0x20, 0x27, 0x28, 0x30, 0x38, 0xCB, 0xD9, 0xDD, 0xED, 0xFD]

/-- The byte the peripheral answers to an IN of a port when State lists no answer for it: a FREE VALUE, one draw per
IN executed under no law (47_io.md R291). The second argument is the number of INs executed before, so that two
draws are never the same application; nothing constrains the function (assumption log entry 2). -/
opaque Config.portRead : (port : Byte) → (draw : Nat) → Byte

/-- A `vector_index` the interrupt source may present (00_scope.md R13, 60_exceptions.md R314). -/
abbrev VectorIndex := Fin Config.hardware.nVectors

/-- The interrupt source's choice at a boundary with INTE 1 for which State lists none: a FREE VALUE, no request or a
request with any index, under no law and for ever (60_exceptions.md R317). The argument is the number of choices made
before; nothing constrains the function (assumption log entry 3). -/
opaque Config.interruptChoice : (choice : Nat) → Option VectorIndex

end Sys2Proof
end

