-- ==== Sys2Proof/Syntax.lean ====
section
/-! DEFINITION. The instructions: one constructor of `Instr` per row of spec/opcode_table.json (30_encoding.md R92),
in the families of files 40 to 48, with the operand shapes of R84, R85 and R89. -/

namespace Sys2Proof

/-- The seven 8-bit registers a register code can name (10_state.md R20; 30_encoding.md R84). -/
inductive Reg where
  | B | C | D | E | H | L | A
deriving DecidableEq, Repr

/-- An 8-bit source operand of the `r|M` rows: a register, or `M`, the memory cell at HL (30_encoding.md R84). -/
inductive Operand where
  | reg (r : Reg)
  | M
deriving DecidableEq, Repr

/-- The 16-bit operands of LXI, INX, DCX and DAD (30_encoding.md R85). -/
inductive Pair where
  | BC | DE | HL | SP
deriving DecidableEq, Repr

/-- The pairs PUSH rp and POP rp move; PSW has rows of its own (30_encoding.md R85, 45_stack.md R250). -/
inductive StackPair where
  | BC | DE | HL
deriving DecidableEq, Repr

/-- The pairs LDAX and STAX address memory with (30_encoding.md R85). -/
inductive IndexPair where
  | BC | DE
deriving DecidableEq, Repr

/-- The eight conditions of the conditional jumps, calls and returns (44_control_transfer.md R203). -/
inductive Cond where
  | NZ | Z | NC | C | PO | PE | P | M
deriving DecidableEq, Repr

/-- The instructions, one constructor per row of spec/opcode_table.json. The five last are the rows of the thirteen
faulting opcode bytes (30_encoding.md R93). -/
inductive Instr where
  -- 40_data_movement.md
  | movRR (dst src : Reg)
  | movRM (dst : Reg)
  | movMR (src : Reg)
  | mviR (dst : Reg) (imm : Byte)
  | mviM (imm : Byte)
  | lxi (rp : Pair) (imm : Word)
  | ldax (rp : IndexPair)
  | stax (rp : IndexPair)
  | lda (addr : Word)
  | sta (addr : Word)
  | lhld (addr : Word)
  | shld (addr : Word)
  -- 41_arithmetic_logic.md, register and M forms
  | add (src : Operand)
  | adc (src : Operand)
  | sub (src : Operand)
  | sbb (src : Operand)
  | ana (src : Operand)
  | xra (src : Operand)
  | ora (src : Operand)
  | cmp (src : Operand)
  -- 41_arithmetic_logic.md, immediate forms
  | adi (imm : Byte)
  | aci (imm : Byte)
  | sui (imm : Byte)
  | sbi (imm : Byte)
  | ani (imm : Byte)
  | xri (imm : Byte)
  | ori (imm : Byte)
  | cpi (imm : Byte)
  -- 41_arithmetic_logic.md, increment and decrement
  | inrR (dst : Reg)
  | inrM
  | dcrR (dst : Reg)
  | dcrM
  -- 42_arith16.md
  | inx (rp : Pair)
  | dcx (rp : Pair)
  | dad (rp : Pair)
  -- 43_rotates.md
  | rlc
  | rrc
  | ral
  | rar
  -- 44_control_transfer.md
  | jmp (addr : Word)
  | jnz (addr : Word)
  | jz (addr : Word)
  | jnc (addr : Word)
  | jc (addr : Word)
  | jpo (addr : Word)
  | jpe (addr : Word)
  | jp (addr : Word)
  | jm (addr : Word)
  | call (addr : Word)
  | cnz (addr : Word)
  | cz (addr : Word)
  | cnc (addr : Word)
  | cc (addr : Word)
  | cpo (addr : Word)
  | cpe (addr : Word)
  | cp (addr : Word)
  | cm (addr : Word)
  | ret
  | rnz
  | rz
  | rnc
  | rc
  | rpo
  | rpe
  | rp
  | rm
  | rst (n : Fin 8)
  | pchl
  -- 45_stack.md
  | push (rp : StackPair)
  | pop (rp : StackPair)
  | pushPsw
  | popPsw
  | xthl
  | sphl
  -- 46_misc.md
  | nop
  | xchg
  | cma
  | cmc
  | di
  | ei
  | hlt
  | stc
  -- 47_io.md
  | inp (port : Byte)
  | outp (port : Byte)
  -- 48_unimplemented.md: the rows that fault
  | daa
  | undoc00 (n : Fin 8)
  | undocCB
  | undocD9
  | undocXD (p : Fin 4)
deriving DecidableEq, Repr

end Sys2Proof
end

