-- ==== Sys2Proof/WellFormed.lean ====
section
/-! DEFINITION. Which terms of `Instr` are instructions of the opcode table: every field value of an implemented
pattern is legal (30_encoding.md R95); only the two faulting rows with a field leave a value to another row. -/

namespace Sys2Proof

/-- 30_encoding.md R92, R95: `!UNDOC_00nnn000` takes nnn from 001 to 111 (000 is NOP, 48_unimplemented.md R302) and
`!UNDOC_xD` takes pp from 01 to 11 (00 is CALL, R305); every other term is well-formed. -/
def Instr.WellFormed : Instr → Bool
  | .undoc00 n => n != 0
  | .undocXD p => p != 0
  | _ => true

end Sys2Proof
end

