-- ==== Sys2Proof/Decode.lean ====
section
/-! DEFINITION. The decoder: the rows of 30_encoding.md R92 in their order, each a mask, a match and the format of
R81 with what its fields build; then the encoder, from the layouts of R82 and the code tables R84 to R86 and
44_control_transfer.md R203. -/

namespace Sys2Proof

/-! ### Bytes and fields -/

/-- `{hi, lo}`: the 16-bit value with `hi` in bits 15:8 and `lo` in bits 7:0 (00_scope.md R6, 30_encoding.md R88). -/
def joinBytes (hi lo : Byte) : Word := hi ++ lo

/-- `v[15:8]` (00_scope.md R6). -/
def hiByte (w : Word) : Byte := w.extractLsb' 8 8

/-- `v[7:0]` (00_scope.md R6). -/
def loByte (w : Word) : Byte := w.extractLsb' 0 8

/-- Bits 5:3 of the opcode byte: `ddd`, `nnn` (30_encoding.md R82). -/
def fieldY (op : Byte) : BitVec 3 := op.extractLsb' 3 3

/-- Bits 2:0 of the opcode byte: `sss` (30_encoding.md R82). -/
def fieldZ (op : Byte) : BitVec 3 := op.extractLsb' 0 3

/-- Bits 5:4 of the opcode byte: `pp` (30_encoding.md R82). -/
def fieldPP (op : Byte) : BitVec 2 := op.extractLsb' 4 2

/-! ### Field codes, read (30_encoding.md R84, R85) -/

/-- The register a code names; code 110 names none (R84). -/
def Reg.ofCode : BitVec 3 → Option Reg
  | 0b000 => some .B
  | 0b001 => some .C
  | 0b010 => some .D
  | 0b011 => some .E
  | 0b100 => some .H
  | 0b101 => some .L
  | 0b111 => some .A
  | _ => none

/-- The 8-bit source operand a code names: code 110 is `M` (R84). -/
def Operand.ofCode (code : BitVec 3) : Operand :=
  match Reg.ofCode code with
  | some r => .reg r
  | none => .M

/-- The pair a code names in LXI, INX, DCX, DAD (R85). -/
def Pair.ofCode : BitVec 2 → Pair
  | 0b00 => .BC
  | 0b01 => .DE
  | 0b10 => .HL
  | _ => .SP

/-- The pair a code names in PUSH rp and POP rp; code 11 is PSW, which has rows of its own (R85). -/
def StackPair.ofCode : BitVec 2 → Option StackPair
  | 0b00 => some .BC
  | 0b01 => some .DE
  | 0b10 => some .HL
  | _ => none

/-- The pair a code names in LDAX and STAX; codes 10 and 11 are other instructions (R85). -/
def IndexPair.ofCode : BitVec 2 → Option IndexPair
  | 0b00 => some .BC
  | 0b01 => some .DE
  | _ => none

/-! ### The table -/

/-- What is known of an instruction once its opcode byte is read: its format (30_encoding.md R81), and with it how
many operand bytes follow and what instruction they complete. -/
inductive Shape where
  | f1 (i : Instr)
  | f2 (i : Byte → Instr)
  | f3 (i : Word → Instr)

/-- The length in bytes a format has (30_encoding.md R80, R81). -/
def Shape.length : Shape → Nat
  | .f1 _ => 1
  | .f2 _ => 2
  | .f3 _ => 3

/-- A row of 30_encoding.md R92: it takes the opcode bytes `op` with `op & mask = match`. -/
structure Row where
  mask : Byte
  bits : Byte
  shape : (op : Byte) → Option Shape

/-- The row takes this opcode byte (30_encoding.md R92). -/
def Row.takes (r : Row) (op : Byte) : Bool := op &&& r.mask == r.bits

/-- A row whose eight opcode bits are all fixed. -/
def fixedRow (bits : Byte) (s : Shape) : Row := ⟨0xFF, bits, fun _ => some s⟩

/-- The fully fixed rows of the arithmetic, data movement and rotate families, in R92's order. -/
def rowsFixedData : List Row := [
  fixedRow 0x36 (.f2 .mviM),
  fixedRow 0x3A (.f3 .lda),
  fixedRow 0x32 (.f3 .sta),
  fixedRow 0x2A (.f3 .lhld),
  fixedRow 0x22 (.f3 .shld),
  fixedRow 0xC6 (.f2 .adi),
  fixedRow 0xCE (.f2 .aci),
  fixedRow 0xD6 (.f2 .sui),
  fixedRow 0xDE (.f2 .sbi),
  fixedRow 0xE6 (.f2 .ani),
  fixedRow 0xEE (.f2 .xri),
  fixedRow 0xF6 (.f2 .ori),
  fixedRow 0xFE (.f2 .cpi),
  fixedRow 0x34 (.f1 .inrM),
  fixedRow 0x35 (.f1 .dcrM),
  fixedRow 0x07 (.f1 .rlc),
  fixedRow 0x0F (.f1 .rrc),
  fixedRow 0x17 (.f1 .ral),
  fixedRow 0x1F (.f1 .rar)]

/-- The fully fixed rows of control transfer, in R92's order. -/
def rowsFixedControl : List Row := [
  fixedRow 0xC3 (.f3 .jmp),
  fixedRow 0xC2 (.f3 .jnz),
  fixedRow 0xCA (.f3 .jz),
  fixedRow 0xD2 (.f3 .jnc),
  fixedRow 0xDA (.f3 .jc),
  fixedRow 0xE2 (.f3 .jpo),
  fixedRow 0xEA (.f3 .jpe),
  fixedRow 0xF2 (.f3 .jp),
  fixedRow 0xFA (.f3 .jm),
  fixedRow 0xCD (.f3 .call),
  fixedRow 0xC4 (.f3 .cnz),
  fixedRow 0xCC (.f3 .cz),
  fixedRow 0xD4 (.f3 .cnc),
  fixedRow 0xDC (.f3 .cc),
  fixedRow 0xE4 (.f3 .cpo),
  fixedRow 0xEC (.f3 .cpe),
  fixedRow 0xF4 (.f3 .cp),
  fixedRow 0xFC (.f3 .cm),
  fixedRow 0xC9 (.f1 .ret),
  fixedRow 0xC0 (.f1 .rnz),
  fixedRow 0xC8 (.f1 .rz),
  fixedRow 0xD0 (.f1 .rnc),
  fixedRow 0xD8 (.f1 .rc),
  fixedRow 0xE0 (.f1 .rpo),
  fixedRow 0xE8 (.f1 .rpe),
  fixedRow 0xF0 (.f1 .rp),
  fixedRow 0xF8 (.f1 .rm),
  fixedRow 0xE9 (.f1 .pchl)]

/-- The fully fixed rows of the stack, miscellaneous and port families, in R92's order. -/
def rowsFixedOther : List Row := [
  fixedRow 0xF5 (.f1 .pushPsw),
  fixedRow 0xF1 (.f1 .popPsw),
  fixedRow 0xE3 (.f1 .xthl),
  fixedRow 0xF9 (.f1 .sphl),
  fixedRow 0x00 (.f1 .nop),
  fixedRow 0xEB (.f1 .xchg),
  fixedRow 0x2F (.f1 .cma),
  fixedRow 0x3F (.f1 .cmc),
  fixedRow 0xF3 (.f1 .di),
  fixedRow 0xFB (.f1 .ei),
  fixedRow 0x76 (.f1 .hlt),
  fixedRow 0x37 (.f1 .stc),
  fixedRow 0xDB (.f2 .inp),
  fixedRow 0xD3 (.f2 .outp)]

/-- The rows with a field in the opcode byte, in R92's order: pairs, then registers, RST and the rest. -/
def rowsWithField : List Row := [
  ⟨0xEF, 0x0A, fun op => (IndexPair.ofCode (fieldPP op)).map fun p => .f1 (.ldax p)⟩,
  ⟨0xEF, 0x02, fun op => (IndexPair.ofCode (fieldPP op)).map fun p => .f1 (.stax p)⟩,
  ⟨0xCF, 0x01, fun op => some (.f3 (.lxi (Pair.ofCode (fieldPP op))))⟩,
  ⟨0xCF, 0x03, fun op => some (.f1 (.inx (Pair.ofCode (fieldPP op))))⟩,
  ⟨0xCF, 0x0B, fun op => some (.f1 (.dcx (Pair.ofCode (fieldPP op))))⟩,
  ⟨0xCF, 0x09, fun op => some (.f1 (.dad (Pair.ofCode (fieldPP op))))⟩,
  ⟨0xCF, 0xC5, fun op => (StackPair.ofCode (fieldPP op)).map fun p => .f1 (.push p)⟩,
  ⟨0xCF, 0xC1, fun op => (StackPair.ofCode (fieldPP op)).map fun p => .f1 (.pop p)⟩,
  ⟨0xC7, 0x46, fun op => (Reg.ofCode (fieldY op)).map fun r => .f1 (.movRM r)⟩,
  ⟨0xF8, 0x70, fun op => (Reg.ofCode (fieldZ op)).map fun r => .f1 (.movMR r)⟩,
  ⟨0xC7, 0x06, fun op => (Reg.ofCode (fieldY op)).map fun r => .f2 (.mviR r)⟩,
  ⟨0xF8, 0x80, fun op => some (.f1 (.add (Operand.ofCode (fieldZ op))))⟩,
  ⟨0xF8, 0x88, fun op => some (.f1 (.adc (Operand.ofCode (fieldZ op))))⟩,
  ⟨0xF8, 0x90, fun op => some (.f1 (.sub (Operand.ofCode (fieldZ op))))⟩,
  ⟨0xF8, 0x98, fun op => some (.f1 (.sbb (Operand.ofCode (fieldZ op))))⟩,
  ⟨0xF8, 0xA0, fun op => some (.f1 (.ana (Operand.ofCode (fieldZ op))))⟩,
  ⟨0xF8, 0xA8, fun op => some (.f1 (.xra (Operand.ofCode (fieldZ op))))⟩,
  ⟨0xF8, 0xB0, fun op => some (.f1 (.ora (Operand.ofCode (fieldZ op))))⟩,
  ⟨0xF8, 0xB8, fun op => some (.f1 (.cmp (Operand.ofCode (fieldZ op))))⟩,
  ⟨0xC7, 0x04, fun op => (Reg.ofCode (fieldY op)).map fun r => .f1 (.inrR r)⟩,
  ⟨0xC7, 0x05, fun op => (Reg.ofCode (fieldY op)).map fun r => .f1 (.dcrR r)⟩,
  ⟨0xC7, 0xC7, fun op => some (.f1 (.rst (fieldY op).toFin))⟩,
  ⟨0xC0, 0x40, fun op => (Reg.ofCode (fieldY op)).bind fun d => (Reg.ofCode (fieldZ op)).map fun s => .f1 (.movRR d s)⟩]

/-- The 84 rows of the instructions in 30_encoding.md R92, in its order: a first-match decoder tries them one after the
other. -/
def opcodeTable : List Row := rowsFixedData ++ rowsFixedControl ++ rowsFixedOther ++ rowsWithField

/-- The 5 rows that fault, in R92's order (30_encoding.md R93, 48_unimplemented.md R301 to R305). -/
def faultingTable : List Row := [
  fixedRow 0x27 (.f1 .daa),
  fixedRow 0xCB (.f1 .undocCB),
  fixedRow 0xD9 (.f1 .undocD9),
  ⟨0xCF, 0xCD, fun op => some (.f1 (.undocXD (fieldPP op).toFin))⟩,
  ⟨0xC7, 0x00, fun op => some (.f1 (.undoc00 (fieldY op).toFin))⟩]

/-- The shape the first row of a table that takes an opcode byte gives it (30_encoding.md R90, R92). -/
def firstMatch (rows : List Row) (op : Byte) : Option Shape :=
  (rows.find? (·.takes op)).bind (·.shape op)

/-- The shape of what an opcode byte begins: a row that faults exactly for the bytes in `UNIMPLEMENTED`, else an
instruction's row (00_scope.md R5, R15 step 3; 30_encoding.md R90). -/
def Config.decodeOpcode (cfg : Config) (op : Byte) : Option Shape :=
  if cfg.unimplemented.contains op then firstMatch faultingTable op else firstMatch opcodeTable op

/-- The shape of what an opcode byte begins on this hardware. -/
def decodeOpcode (op : Byte) : Option Shape := Config.hardware.decodeOpcode op

/-! ### The decoder -/

/-- Why bytes do not decode. -/
inductive DecodeError where
  /-- There is no opcode byte. -/
  | noOpcode
  /-- The opcode's operand bytes are not all there (30_encoding.md R81). -/
  | missingOperand
  /-- No row takes the opcode byte, or its field names no operand. No byte is so: the rows partition the 256 bytes
  (30_encoding.md R92; proved as `decodeOpcode_isSome`). -/
  | noRow
deriving DecidableEq, Repr

/-- One instruction from the bytes at consecutive addresses, and the bytes after it (30_encoding.md R80, R90); the
low operand byte comes first (R88). -/
def decode : List Byte → Except DecodeError (Instr × List Byte)
  | [] => .error .noOpcode
  | op :: rest =>
    match decodeOpcode op, rest with
    | none, _ => .error .noRow
    | some (.f1 i), rest => .ok (i, rest)
    | some (.f2 i), imm :: rest => .ok (i imm, rest)
    | some (.f3 i), lo :: hi :: rest => .ok (i (joinBytes hi lo), rest)
    | some (.f2 _), [] => .error .missingOperand
    | some (.f3 _), [] => .error .missingOperand
    | some (.f3 _), [_] => .error .missingOperand

/-- How many bytes the instruction an opcode byte begins has, the opcode byte alone telling (30_encoding.md R80); a
byte of no row (there is none) counts as one. -/
def opcodeLength (op : Byte) : Nat :=
  match decodeOpcode op with
  | some s => s.length
  | none => 1

/-- The bytes of a word whose bits are numbered as spec/opcode_table.json numbers them (byte 0 is bits 7:0), up to the
longest instruction, the bits above `nbits` zero. -/
def tableBytes (nbits w : Nat) : List Byte :=
  let v := w % 2 ^ nbits
  [BitVec.ofNat 8 v, BitVec.ofNat 8 (v / 2 ^ 8), BitVec.ofNat 8 (v / 2 ^ 16)]

/-- The instruction the decoder reads from an instruction whose bits are `w`, numbered as the opcode table numbers
them. -/
def decodeTableWord (nbits w : Nat) : Option Instr :=
  match decode (tableBytes nbits w) with
  | .ok (i, _) => some i
  | .error _ => none

/-! ### Field codes, written (30_encoding.md R84, R85) -/

/-- The register's code (R84). -/
def Reg.code : Reg → BitVec 3
  | .B => 0b000
  | .C => 0b001
  | .D => 0b010
  | .E => 0b011
  | .H => 0b100
  | .L => 0b101
  | .A => 0b111

/-- The operand's code (R84). -/
def Operand.code : Operand → BitVec 3
  | .reg r => r.code
  | .M => 0b110

/-- The pair's code in LXI, INX, DCX and DAD (R85). -/
def Pair.code : Pair → BitVec 2
  | .BC => 0b00
  | .DE => 0b01
  | .HL => 0b10
  | .SP => 0b11

/-- The pair's code in PUSH and POP (R85). -/
def StackPair.code : StackPair → BitVec 2
  | .BC => 0b00
  | .DE => 0b01
  | .HL => 0b10

/-- The pair's code in LDAX and STAX (R85). -/
def IndexPair.code : IndexPair → BitVec 2
  | .BC => 0b00
  | .DE => 0b01

/-- The condition's code `ccc` (44_control_transfer.md R203). -/
def Cond.code : Cond → BitVec 3
  | .NZ => 0b000
  | .Z => 0b001
  | .NC => 0b010
  | .C => 0b011
  | .PO => 0b100
  | .PE => 0b101
  | .P => 0b110
  | .M => 0b111

/-! ### The encoder -/

/-- The opcode byte `xx yyy zzz` (30_encoding.md R82). -/
def opcodeXYZ (xx : BitVec 2) (yyy zzz : BitVec 3) : Byte := xx ++ yyy ++ zzz

/-- The opcode byte `xx pp k zzz`: a pair code in bits 5:4 and a fixed bit 3 (30_encoding.md R82). -/
def opcodePair (xx pp : BitVec 2) (k : BitVec 1) (zzz : BitVec 3) : Byte := xx ++ pp ++ k ++ zzz

/-- The opcode byte of an instruction (30_encoding.md R82, R84 to R86, 44_control_transfer.md R203). -/
def Instr.opcode : Instr → Byte
  | .movRR d s => opcodeXYZ 0b01 d.code s.code
  | .movRM d => opcodeXYZ 0b01 d.code 0b110
  | .movMR s => opcodeXYZ 0b01 0b110 s.code
  | .mviR d _ => opcodeXYZ 0b00 d.code 0b110
  | .mviM _ => opcodeXYZ 0b00 0b110 0b110
  | .lxi p _ => opcodePair 0b00 p.code 0 0b001
  | .ldax p => opcodePair 0b00 p.code 1 0b010
  | .stax p => opcodePair 0b00 p.code 0 0b010
  | .lda _ => 0b00111010
  | .sta _ => 0b00110010
  | .lhld _ => 0b00101010
  | .shld _ => 0b00100010
  | .add s => opcodeXYZ 0b10 0b000 s.code
  | .adc s => opcodeXYZ 0b10 0b001 s.code
  | .sub s => opcodeXYZ 0b10 0b010 s.code
  | .sbb s => opcodeXYZ 0b10 0b011 s.code
  | .ana s => opcodeXYZ 0b10 0b100 s.code
  | .xra s => opcodeXYZ 0b10 0b101 s.code
  | .ora s => opcodeXYZ 0b10 0b110 s.code
  | .cmp s => opcodeXYZ 0b10 0b111 s.code
  | .adi _ => opcodeXYZ 0b11 0b000 0b110
  | .aci _ => opcodeXYZ 0b11 0b001 0b110
  | .sui _ => opcodeXYZ 0b11 0b010 0b110
  | .sbi _ => opcodeXYZ 0b11 0b011 0b110
  | .ani _ => opcodeXYZ 0b11 0b100 0b110
  | .xri _ => opcodeXYZ 0b11 0b101 0b110
  | .ori _ => opcodeXYZ 0b11 0b110 0b110
  | .cpi _ => opcodeXYZ 0b11 0b111 0b110
  | .inrR d => opcodeXYZ 0b00 d.code 0b100
  | .inrM => opcodeXYZ 0b00 0b110 0b100
  | .dcrR d => opcodeXYZ 0b00 d.code 0b101
  | .dcrM => opcodeXYZ 0b00 0b110 0b101
  | .inx p => opcodePair 0b00 p.code 0 0b011
  | .dcx p => opcodePair 0b00 p.code 1 0b011
  | .dad p => opcodePair 0b00 p.code 1 0b001
  | .rlc => 0b00000111
  | .rrc => 0b00001111
  | .ral => 0b00010111
  | .rar => 0b00011111
  | .jmp _ => 0b11000011
  | .jnz _ => opcodeXYZ 0b11 Cond.NZ.code 0b010
  | .jz _ => opcodeXYZ 0b11 Cond.Z.code 0b010
  | .jnc _ => opcodeXYZ 0b11 Cond.NC.code 0b010
  | .jc _ => opcodeXYZ 0b11 Cond.C.code 0b010
  | .jpo _ => opcodeXYZ 0b11 Cond.PO.code 0b010
  | .jpe _ => opcodeXYZ 0b11 Cond.PE.code 0b010
  | .jp _ => opcodeXYZ 0b11 Cond.P.code 0b010
  | .jm _ => opcodeXYZ 0b11 Cond.M.code 0b010
  | .call _ => 0b11001101
  | .cnz _ => opcodeXYZ 0b11 Cond.NZ.code 0b100
  | .cz _ => opcodeXYZ 0b11 Cond.Z.code 0b100
  | .cnc _ => opcodeXYZ 0b11 Cond.NC.code 0b100
  | .cc _ => opcodeXYZ 0b11 Cond.C.code 0b100
  | .cpo _ => opcodeXYZ 0b11 Cond.PO.code 0b100
  | .cpe _ => opcodeXYZ 0b11 Cond.PE.code 0b100
  | .cp _ => opcodeXYZ 0b11 Cond.P.code 0b100
  | .cm _ => opcodeXYZ 0b11 Cond.M.code 0b100
  | .ret => 0b11001001
  | .rnz => opcodeXYZ 0b11 Cond.NZ.code 0b000
  | .rz => opcodeXYZ 0b11 Cond.Z.code 0b000
  | .rnc => opcodeXYZ 0b11 Cond.NC.code 0b000
  | .rc => opcodeXYZ 0b11 Cond.C.code 0b000
  | .rpo => opcodeXYZ 0b11 Cond.PO.code 0b000
  | .rpe => opcodeXYZ 0b11 Cond.PE.code 0b000
  | .rp => opcodeXYZ 0b11 Cond.P.code 0b000
  | .rm => opcodeXYZ 0b11 Cond.M.code 0b000
  | .rst n => opcodeXYZ 0b11 (BitVec.ofFin n) 0b111
  | .pchl => 0b11101001
  | .push p => opcodePair 0b11 p.code 0 0b101
  | .pop p => opcodePair 0b11 p.code 0 0b001
  | .pushPsw => opcodePair 0b11 0b11 0 0b101
  | .popPsw => opcodePair 0b11 0b11 0 0b001
  | .xthl => 0b11100011
  | .sphl => 0b11111001
  | .nop => 0b00000000
  | .xchg => 0b11101011
  | .cma => 0b00101111
  | .cmc => 0b00111111
  | .di => 0b11110011
  | .ei => 0b11111011
  | .hlt => 0b01110110
  | .stc => 0b00110111
  | .inp _ => 0b11011011
  | .outp _ => 0b11010011
  | .daa => 0b00100111
  | .undoc00 n => opcodeXYZ 0b00 (BitVec.ofFin n) 0b000
  | .undocCB => 0b11001011
  | .undocD9 => 0b11011001
  | .undocXD p => opcodePair 0b11 (BitVec.ofFin p) 1 0b101

/-- The two operand bytes of an F3 instruction, low byte first (30_encoding.md R81, R88). -/
def wordBytes (w : Word) : List Byte := [loByte w, hiByte w]

/-- The operand bytes that follow the opcode byte (30_encoding.md R81). -/
def Instr.operandBytes : Instr → List Byte
  | .mviR _ v | .mviM v | .adi v | .aci v | .sui v | .sbi v | .ani v | .xri v | .ori v | .cpi v
  | .inp v | .outp v => [v]
  | .lxi _ w | .lda w | .sta w | .lhld w | .shld w
  | .jmp w | .jnz w | .jz w | .jnc w | .jc w | .jpo w | .jpe w | .jp w | .jm w
  | .call w | .cnz w | .cz w | .cnc w | .cc w | .cpo w | .cpe w | .cp w | .cm w => wordBytes w
  | .movRR _ _ | .movRM _ | .movMR _ | .ldax _ | .stax _
  | .add _ | .adc _ | .sub _ | .sbb _ | .ana _ | .xra _ | .ora _ | .cmp _
  | .inrR _ | .inrM | .dcrR _ | .dcrM | .inx _ | .dcx _ | .dad _ | .rlc | .rrc | .ral | .rar
  | .ret | .rnz | .rz | .rnc | .rc | .rpo | .rpe | .rp | .rm | .rst _ | .pchl
  | .push _ | .pop _ | .pushPsw | .popPsw | .xthl | .sphl
  | .nop | .xchg | .cma | .cmc | .di | .ei | .hlt | .stc
  | .daa | .undoc00 _ | .undocCB | .undocD9 | .undocXD _ => []

/-- The bytes of an instruction at consecutive addresses (30_encoding.md R80, R81). -/
def encode (i : Instr) : List Byte := i.opcode :: i.operandBytes

end Sys2Proof
end

