-- ==== Sys2Proof/Machine/State.lean ====
section
/-! DEFINITION. The whole state of the core (10_state.md R20 to R37, 20_memory.md R50), the choices of the agents
around it as plain data (00_scope.md R8), the reasons a step can stop, and the state after reset. -/

namespace Sys2Proof.Machine

/-- The five flag bits (10_state.md R26). -/
structure Flags where
  /-- Zero (R26, R27). -/
  z : Bool
  /-- Sign (R26, R27). -/
  s : Bool
  /-- Parity (R26, R27). -/
  p : Bool
  /-- Carry (R26). -/
  cy : Bool
  /-- Auxiliary-Carry: stored, never computed (R26, R30). -/
  ac : Bool
deriving DecidableEq, Repr

/-- The causes of the fault: the core has one (60_exceptions.md R311, which allows a one-constructor type). -/
inductive FaultCause where
  | unimplementedInstruction
deriving DecidableEq, Repr

/-- The fault record (10_state.md R33); it has no meaning until FAULT is 1 (R37). -/
structure FaultRecord where
  /-- `cause` (R33, 60_exceptions.md R311). -/
  cause : FaultCause
  /-- `op`, the opcode byte that faulted (R33). -/
  op : Byte
  /-- `at`, the address it was fetched from (R33). -/
  addr : Word
deriving DecidableEq, Repr

/-- Memory: (address, byte) pairs, addresses strictly rising, no entry equal to what an unlisted address reads as
(`Memory.wf` in Ops.lean). -/
abbrev Memory := List Host.Cell

/-- The state of the machine (10_state.md R20 to R33, 20_memory.md R50), then what the agents around it have done and
will do, as plain data (00_scope.md R8). -/
structure State where
  /-- The accumulator (10_state.md R20). -/
  a : Byte
  /-- Register B (R20). -/
  b : Byte
  /-- Register C (R20). -/
  c : Byte
  /-- Register D (R20). -/
  d : Byte
  /-- Register E (R20). -/
  e : Byte
  /-- Register H (R20). -/
  h : Byte
  /-- Register L (R20). -/
  l : Byte
  /-- The stack pointer (R23). -/
  sp : Word
  /-- The program counter (R24). -/
  pc : Word
  /-- The five flag bits (R26). -/
  flags : Flags
  /-- INTE, the interrupt-enable bit (R31). -/
  inte : Bool
  /-- HALTED, set by HLT (R32). -/
  halted : Bool
  /-- FAULT, the sticky latch of the one exception (R33). -/
  fault : Bool
  /-- The fault record (R33). -/
  record : FaultRecord
  /-- The 65536 memory cells (20_memory.md R50). -/
  mem : Memory
  /-- Every `PortWrite(p, v)` event, in the order executed, oldest first (47_io.md R291, 92_eei_decisions.md O4). -/
  portOut : List (Byte × Byte)
  /-- The model's own: the bytes the peripheral will answer to the coming INs, first one first (47_io.md R291). Where
  it is empty an IN takes the free value `Config.portRead` (DESIGN CHOICE, safe: assumption log entry 2). -/
  portIn : List Byte
  /-- The model's own: how many INs have executed, so that each free value is fresh (DESIGN CHOICE,
  safe: assumption log entry 2). -/
  draws : Nat
  /-- The model's own: the interrupt source's choice at each coming boundary where INTE is 1, first one first: no
  request, or a request with a vector index (60_exceptions.md R317, 92_eei_decisions.md O3). Past its end every choice
  is the free value `Config.interruptChoice`, so no schedule is shut out, an endless one included (DESIGN CHOICE, safe:
  assumption log entry 3). -/
  irqs : List (Option VectorIndex)
  /-- The model's own: how many choices the interrupt source has made, so that each free value is fresh (DESIGN CHOICE,
  safe: assumption log entry 3). -/
  choices : Nat
deriving DecidableEq, Repr

/-- Why the executor has no step (00_scope.md R15, R16; 93_implementation_defined.md U13). Only `step` raises these;
no instruction's meaning does. -/
inductive Fault where
  /-- HALTED is 1: the normal end of a run (R16). Raised by `step` alone. Safe: the spec gives the executor no step. -/
  | halted
  /-- FAULT is 1: the abnormal end of a run (R16). Raised by `step` alone. Safe: the spec gives the executor no step. -/
  | faulted
deriving DecidableEq, Repr

/-- Why the model gives no meaning. -/
inductive Refusal where
  /-- An instruction without a meaning yet, by its mnemonic. No arm of `exec` raises it. Safe. -/
  | notModelled (mnemonic : String)
  /-- The bytes at PC did not decode. `executorStep` would raise it, and never does: the opcode table takes every byte
  (30_encoding.md R92; proved as `executorStep_eq_exec`). Safe. -/
  | undecodable
deriving DecidableEq, Repr

/-- What executing an instruction answers. -/
abbrev Result := Host.Outcome State Fault Refusal

/-- The state right after reset, before the load (70_reset_and_hazards.md R350, 10_state.md R37). The fault record
(log entry 1: unsafe, no statement reads it while FAULT is 0) and the last four fields (log entries 2 and 3) are the
model's DESIGN CHOICE. -/
def State.reset : State where
  a := 0
  b := 0
  c := 0
  d := 0
  e := 0
  h := 0
  l := 0
  sp := 0
  pc := Config.hardware.resetPc
  flags := { z := false, s := false, p := false, cy := false, ac := false }
  inte := false
  halted := false
  fault := false
  record := { cause := .unimplementedInstruction, op := 0, addr := 0 }
  mem := []
  portOut := []
  portIn := []
  draws := 0
  irqs := []
  choices := 0

end Sys2Proof.Machine
end

