-- ==== Sys2Proof/Machine/Ops.lean ====
section
/-! DEFINITION. The named operations over registers, memory and ports: every read and write of the state goes through
these. Then the stack engine (44_control_transfer.md R200 to R202), the one exception (60_exceptions.md R310),
interrupt acceptance and the return from it (R316, R318), and the load (70_reset_and_hazards.md R353). -/

namespace Sys2Proof.Machine

/-! ### Memory -/

/-- What a cell nothing has written reads as: memory is zero-filled at reset (10_state.md R37). -/
def Memory.blank : Byte := 0x00

/-- The byte at an address (20_memory.md R50). -/
def Memory.read : Memory → Nat → Byte
  | [], _ => Memory.blank
  | (k, v) :: m, addr => if k = addr then v else Memory.read m addr

/-- A memory with an address not listed. -/
def Memory.erase (m : Memory) (addr : Nat) : Memory := m.filter fun cell => cell.1 != addr

/-- A cell put in its place among rising addresses. -/
def Memory.insert : Memory → Nat → Byte → Memory
  | [], addr, v => [(addr, v)]
  | (k, u) :: m, addr, v => if addr < k then (addr, v) :: (k, u) :: m else (k, u) :: Memory.insert m addr v

/-- Store a byte at an address (20_memory.md R52). The canonical form is kept: the address is listed in its place, or
not at all when the byte is what an unlisted address reads as. -/
def Memory.write (m : Memory) (addr : Nat) (v : Byte) : Memory :=
  if v = Memory.blank then Memory.erase m addr else Memory.insert (Memory.erase m addr) addr v

/-- Every address listed is at least `low`, the addresses rise strictly and stay below 65536, and no listed byte is
what an unlisted address reads as. -/
def Memory.wfFrom : (low : Nat) → Memory → Bool
  | _, [] => true
  | low, (k, v) :: m => decide (low ≤ k) && decide (k < 65536) && decide (v ≠ Memory.blank) && Memory.wfFrom (k + 1) m

/-- The canonical form of memory. -/
def Memory.wf (m : Memory) : Bool := Memory.wfFrom 0 m

/-- `MemRead(addr, 1)` (00_scope.md R7). -/
def State.readByte (s : State) (addr : Word) : Byte := Memory.read s.mem addr.toNat

/-- `MemWrite(addr, 1, v)` (00_scope.md R7). -/
def State.writeByte (s : State) (addr : Word) (v : Byte) : State :=
  { s with mem := Memory.write s.mem addr.toNat v }

/-- `MemRead(addr, 2)`: the low byte is at the lower address, the next address is mod 65536 (00_scope.md R7,
20_memory.md R53, R54). -/
def State.readWord (s : State) (addr : Word) : Word :=
  joinBytes (s.readByte (addr + 1)) (s.readByte addr)

/-- `MemWrite(addr, 2, v)`: the low byte first, at the lower address (00_scope.md R7, 20_memory.md R54). -/
def State.writeWord (s : State) (addr : Word) (w : Word) : State :=
  (s.writeByte addr (loByte w)).writeByte (addr + 1) (hiByte w)

/-! ### Registers -/

/-- `r[c]` (00_scope.md R7). -/
def State.getReg (s : State) : Reg → Byte
  | .B => s.b
  | .C => s.c
  | .D => s.d
  | .E => s.e
  | .H => s.h
  | .L => s.l
  | .A => s.a

/-- `r[c] <- v` (00_scope.md R7). -/
def State.setReg (s : State) (r : Reg) (v : Byte) : State :=
  match r with
  | .B => { s with b := v }
  | .C => { s with c := v }
  | .D => { s with d := v }
  | .E => { s with e := v }
  | .H => { s with h := v }
  | .L => { s with l := v }
  | .A => { s with a := v }

/-- `BC = {B, C}` (10_state.md R21). -/
def State.bc (s : State) : Word := joinBytes s.b s.c

/-- `DE = {D, E}` (10_state.md R21). -/
def State.de (s : State) : Word := joinBytes s.d s.e

/-- `HL = {H, L}` (10_state.md R21). -/
def State.hl (s : State) : Word := joinBytes s.h s.l

/-- `BC <- v` (00_scope.md R7). -/
def State.setBC (s : State) (w : Word) : State := { s with b := hiByte w, c := loByte w }

/-- `DE <- v` (00_scope.md R7). -/
def State.setDE (s : State) (w : Word) : State := { s with d := hiByte w, e := loByte w }

/-- `HL <- v` (00_scope.md R7). -/
def State.setHL (s : State) (w : Word) : State := { s with h := hiByte w, l := loByte w }

/-- `SP <- v` (10_state.md R23). -/
def State.setSP (s : State) (w : Word) : State := { s with sp := w }

/-- `PC <- v` (10_state.md R24). -/
def State.setPC (s : State) (w : Word) : State := { s with pc := w }

/-- Write all five flag bits (10_state.md R26). -/
def State.setFlags (s : State) (f : Flags) : State := { s with flags := f }

/-- `INTE <- v` (10_state.md R31). -/
def State.setInte (s : State) (v : Bool) : State := { s with inte := v }

/-- `rp[p]` for LXI, INX, DCX and DAD (00_scope.md R7, 30_encoding.md R85). -/
def State.getPair (s : State) : Pair → Word
  | .BC => s.bc
  | .DE => s.de
  | .HL => s.hl
  | .SP => s.sp

/-- `rp[p] <- v` for LXI, INX, DCX and DAD (00_scope.md R7, 30_encoding.md R85). -/
def State.setPair (s : State) (p : Pair) (w : Word) : State :=
  match p with
  | .BC => s.setBC w
  | .DE => s.setDE w
  | .HL => s.setHL w
  | .SP => s.setSP w

/-- `rp[p]` for PUSH (30_encoding.md R85). -/
def State.getStackPair (s : State) : StackPair → Word
  | .BC => s.bc
  | .DE => s.de
  | .HL => s.hl

/-- `rp[p] <- v` for POP (30_encoding.md R85). -/
def State.setStackPair (s : State) (p : StackPair) (w : Word) : State :=
  match p with
  | .BC => s.setBC w
  | .DE => s.setDE w
  | .HL => s.setHL w

/-- `PC <- next`, the address `length` bytes on, mod 65536 (00_scope.md R7, R15; 10_state.md R25). -/
def State.advance (s : State) (length : Nat) : State := s.setPC (s.pc + BitVec.ofNat 16 length)

/-! ### The stack engine (44_control_transfer.md R200 to R202) -/

/-- `push16(v)`: the high byte at SP - 1, then the low byte at SP - 2, then SP down by 2, all mod 65536 (R200). -/
def State.push16 (s : State) (w : Word) : State :=
  ((s.writeByte (s.sp - 1) (hiByte w)).writeByte (s.sp - 2) (loByte w)).setSP (s.sp - 2)

/-- The value `pop16()` returns: the low byte at SP, the high byte at SP + 1, mod 65536 (R201). -/
def State.popValue (s : State) : Word := s.readWord s.sp

/-- What `pop16()` does to SP: up by 2, mod 65536; no cell changes (R201). -/
def State.dropTop (s : State) : State := s.setSP (s.sp + 2)

/-- `call(target)`: push the PC, which holds the return address, and go to the target (R202). -/
def State.callTo (s : State) (target : Word) : State := (s.push16 s.pc).setPC target

/-- `return_()`: pop the PC (R202). It is the return from an accepted interrupt as well: there is no other return,
and INTE is not restored (60_exceptions.md R318). -/
def State.returnFromCall (s : State) : State := s.dropTop.setPC s.popValue

/-! ### The exception and interrupt acceptance (60_exceptions.md) -/

/-- `UnimplementedInstruction(op, at)`: FAULT is set and the record filled with the byte and the PC it was fetched
from; nothing else changes, the PC among it (R310, R311). -/
def State.raiseUnimplemented (s : State) (op : Byte) : State :=
  { s with fault := true, record := { cause := .unimplementedInstruction, op := op, addr := s.pc } }

/-- The address of interrupt vector n (00_scope.md R5 `VECTOR_STRIDE`, 60_exceptions.md R316). -/
def vectorAddress (cfg : Config) (n : VectorIndex) : Word := BitVec.ofNat 16 (cfg.vectorStride * n.val)

/-- Interrupt acceptance: the PC is pushed, control goes to the vector and INTE is cleared (R316). -/
def State.acceptInterrupt (s : State) (n : VectorIndex) : State :=
  (s.callTo (vectorAddress Config.hardware n)).setInte false

/-- The interrupt source's next choice, no request or a request with an index: the next one listed, else the free
value (60_exceptions.md R317). -/
def State.nextChoice (s : State) : Option VectorIndex := s.irqs.headD (Config.interruptChoice s.choices)

/-- The request at this boundary: none while INTE is 0, since the interrupt source then makes none
(00_scope.md R9, 60_exceptions.md R315, R317). -/
def State.request (s : State) : Option VectorIndex :=
  if s.inte then s.nextChoice else none

/-- The state once the interrupt source has chosen at this boundary: one choice is used up where INTE is 1
(60_exceptions.md R317). -/
def State.afterRequest (s : State) : State :=
  if s.inte then { s with irqs := s.irqs.tail, choices := s.choices + 1 } else s

/-- No request at the next `n` boundaries at which one could be made: `n` choices of none come first. EI does this for
`EI_DELAY`, which is 0 on this hardware (46_misc.md R276; 92_eei_decisions.md D10). -/
def State.delayRequests (s : State) (n : Nat) : State := { s with irqs := List.replicate n none ++ s.irqs }

/-! ### Ports (47_io.md) -/

/-- The byte `PortRead(p)` answers: the next listed answer, else the free value (R291). -/
def State.portAnswer (s : State) (port : Byte) : Byte := s.portIn.headD (Config.portRead port s.draws)

/-- One `PortRead` has been drawn (R290, R291). -/
def State.afterPortRead (s : State) : State := { s with portIn := s.portIn.tail, draws := s.draws + 1 }

/-- `PortWrite(p, v)`: the event is recorded after those before it (R291, 92_eei_decisions.md O4). -/
def State.portWrite (s : State) (port v : Byte) : State := { s with portOut := s.portOut ++ [(port, v)] }

/-! ### The load (70_reset_and_hazards.md R353) -/

/-- Store bytes at consecutive addresses from `addr` on. -/
def Memory.writeList (m : Memory) (addr : Nat) : List Byte → Memory
  | [] => m
  | v :: vs => Memory.writeList (Memory.write m addr v) (addr + 1) vs

/-- The load of an image at a base address, between reset and the first step; an image that would pass the end of
memory is refused by the loader, and the PC does not move (R352, R353; 92_eei_decisions.md D14). -/
def State.load (s : State) (base : Word) (image : List Byte) : Option State :=
  if base.toNat + image.length ≤ 65536 then
    some { s with mem := Memory.writeList s.mem base.toNat image }
  else none

end Sys2Proof.Machine
end

