-- ==== Sys2Proof/Machine/Flags.lean ====
section
/-! DEFINITION. The flag unit (41_arithmetic_logic.md R141 to R143), DAD's sum (42_arith16.md R184), the conditions
(44_control_transfer.md R203) and the flag byte of the PSW (45_stack.md R253 to R255). -/

namespace Sys2Proof.Machine

/-- The number of bits of a byte that are 1. -/
def onesCount (v : Byte) : Nat :=
  v[0].toNat + v[1].toNat + v[2].toNat + v[3].toNat + v[4].toNat + v[5].toNat + v[6].toNat + v[7].toNat

/-- `parity_even(v)` (00_scope.md R6). -/
def parityEven (v : Byte) : Bool := onesCount v % 2 == 0

/-- `zsp(res)`: Zero, Sign and Parity from a result; CY and AC keep their values (10_state.md R27, R143). -/
def Flags.zsp (f : Flags) (res : Byte) : Flags :=
  { f with z := res == 0, s := res[7], p := parityEven res }

/-- The true sum `a + v + cin`, from 0 to 511 (R141). -/
def sum8 (a v : Byte) (cin : Bool) : Nat := a.toNat + v.toNat + cin.toNat

/-- The byte `add8(a, v, cin)` returns (R141). -/
def add8 (a v : Byte) (cin : Bool) : Byte := BitVec.ofNat 8 (sum8 a v cin)

/-- The flags `add8(a, v, cin)` leaves: Z, S, P from the result, CY from bit 8 of the true sum (R141). -/
def Flags.afterAdd (f : Flags) (a v : Byte) (cin : Bool) : Flags :=
  { f.zsp (add8 a v cin) with cy := decide (sum8 a v cin > 0xFF) }

/-- The true difference `a - v - bin`, from -256 to 255 (R142). -/
def diff8 (a v : Byte) (bin : Bool) : Int := (a.toNat : Int) - v.toNat - bin.toNat

/-- The byte `sub8(a, v, bin)` returns (R142). -/
def sub8 (a v : Byte) (bin : Bool) : Byte := BitVec.ofInt 8 (diff8 a v bin)

/-- The flags `sub8(a, v, bin)` leaves: Z, S, P from the result, CY equal to `SUB_BORROW_FLAG` exactly when the
subtraction borrows (R142). -/
def Flags.afterSub (cfg : Config) (f : Flags) (a v : Byte) (bin : Bool) : Flags :=
  { f.zsp (sub8 a v bin) with cy := decide (diff8 a v bin < 0) == cfg.subBorrowFlag }

/-- The borrow-in of SBB and SBI: 1 when CY holds the "borrow occurred" value (R142, R147; 92_eei_decisions.md D26). -/
def Flags.borrowIn (cfg : Config) (f : Flags) : Bool := f.cy == cfg.subBorrowFlag

/-- The flags a logic instruction leaves: Z, S, P from the result; Carry kept, unless `LOGIC_CLEARS_CY` (R143). -/
def Flags.afterLogic (cfg : Config) (f : Flags) (res : Byte) : Flags :=
  { f.zsp res with cy := if cfg.logicClearsCy then false else f.cy }

/-- Write Carry alone. -/
def Flags.withCarry (f : Flags) (cy : Bool) : Flags := { f with cy := cy }

/-- The true sum of DAD, from 0 to 131070 (42_arith16.md R184). -/
def sum16 (v w : Word) : Nat := v.toNat + w.toNat

/-- `cond(ccc)` (44_control_transfer.md R203). -/
def Flags.cond (f : Flags) : Cond → Bool
  | .NZ => !f.z
  | .Z => f.z
  | .NC => !f.cy
  | .C => f.cy
  | .PO => !f.p
  | .PE => f.p
  | .P => !f.s
  | .M => f.s

/-- `pack_flags()`: Z in bit 0, S in bit 1, P in bit 2, CY in bit 3, AC in bit 4, bits 7:5 zero (45_stack.md R253,
R254). -/
def Flags.pack (f : Flags) : Byte :=
  (0 : BitVec 3) ++ BitVec.ofBool f.ac ++ BitVec.ofBool f.cy ++ BitVec.ofBool f.p ++ BitVec.ofBool f.s ++ BitVec.ofBool f.z

/-- `unpack_flags(F)`; bits 7:5 are dropped (45_stack.md R253, R255). -/
def Flags.unpack (v : Byte) : Flags :=
  { z := v[0], s := v[1], p := v[2], cy := v[3], ac := v[4] }

end Sys2Proof.Machine
end

