-- ==== Sys2Proof/Machine/Operands.lean ====
section
/-! DEFINITION. The operand forms (30_encoding.md R89) and the shared operations of each family over them: the
meanings of the family files are these, with an instruction's own operands and length. -/

namespace Sys2Proof.Machine

/-- The second operand `v`: a register, or for `M` the byte at HL (41_arithmetic_logic.md R140, 30_encoding.md R84). -/
def State.operand (s : State) : Operand → Byte
  | .reg r => s.getReg r
  | .M => s.readByte s.hl

/-- The address LDAX and STAX use (30_encoding.md R85, R89). -/
def State.indexAddress (s : State) : IndexPair → Word
  | .BC => s.bc
  | .DE => s.de

/-! ### 8-bit arithmetic and logic on A -/

/-- `A <- add8(A, v, cin)` (R141, R144, R145). -/
def State.addToA (s : State) (v : Byte) (cin : Bool) : State :=
  { s with a := add8 s.a v cin, flags := s.flags.afterAdd s.a v cin }

/-- `A <- sub8(A, v, bin)` (R142, R146, R147). -/
def State.subFromA (cfg : Config) (s : State) (v : Byte) (bin : Bool) : State :=
  { s with a := sub8 s.a v bin, flags := s.flags.afterSub cfg s.a v bin }

/-- `sub8(A, v, 0)` with the result discarded (R151, R159). -/
def State.compareA (cfg : Config) (s : State) (v : Byte) : State :=
  s.setFlags (s.flags.afterSub cfg s.a v false)

/-- `A <- res` and the flags of a logic instruction from it (R143, R148 to R150). -/
def State.logicToA (cfg : Config) (s : State) (res : Byte) : State :=
  { s with a := res, flags := s.flags.afterLogic cfg res }

/-- A register takes a result and the flags follow it by `zsp` (R160, R162). -/
def State.countReg (s : State) (r : Reg) (res : Byte) : State :=
  (s.setReg r res).setFlags (s.flags.zsp res)

/-- The cell at HL takes a result and the flags follow it by `zsp` (R161, R163). -/
def State.countM (s : State) (res : Byte) : State :=
  (s.writeByte s.hl res).setFlags (s.flags.zsp res)

/-- A and Carry after a rotate; no other flag is written (43_rotates.md R190). -/
def State.rotateA (s : State) (res : Byte) (cy : Bool) : State :=
  { s with a := res, flags := s.flags.withCarry cy }

/-! ### Conditional transfers (44_control_transfer.md R203, R233) -/

/-- A jump taken when the condition holds (R205 to R212). -/
def State.jumpIf (s : State) (cond : Cond) (target : Word) : State :=
  if s.flags.cond cond then s.setPC target else s

/-- A call taken when the condition holds (R214 to R221). -/
def State.callIf (s : State) (cond : Cond) (target : Word) : State :=
  if s.flags.cond cond then s.callTo target else s

/-- A return taken when the condition holds (R223 to R230). -/
def State.returnIf (s : State) (cond : Cond) : State :=
  if s.flags.cond cond then s.returnFromCall else s

end Sys2Proof.Machine
end

