-- ==== Sys2Proof/Machine/Arith16.lean ====
section
/-! DEFINITION. 16-bit arithmetic (42_arith16.md). -/

namespace Sys2Proof.Machine

/-- INX rp (R181): no flag. -/
def execInx (rp : Pair) (s : State) : Result :=
  let s := s.advance 1
  .next (s.setPair rp (s.getPair rp + 1))

/-- DCX rp (R182): no flag. -/
def execDcx (rp : Pair) (s : State) : Result :=
  let s := s.advance 1
  .next (s.setPair rp (s.getPair rp - 1))

/-- DAD rp (R184): Carry from bit 16 of the true sum, no other flag. -/
def execDad (rp : Pair) (s : State) : Result :=
  let s := s.advance 1
  let t := sum16 s.hl (s.getPair rp)
  .next ((s.setHL (BitVec.ofNat 16 t)).setFlags (s.flags.withCarry (decide (t > 0xFFFF))))

end Sys2Proof.Machine
end

