-- ==== Sys2Proof/Machine/Arithmetic.lean ====
section
/-! DEFINITION. The eight accumulator operations with a register or M operand (41_arithmetic_logic.md R140, R144 to R151). -/

namespace Sys2Proof.Machine

/-- ADD r and ADD M (R144). -/
def execAdd (src : Operand) (s : State) : Result :=
  let s := s.advance 1
  .next (s.addToA (s.operand src) false)

/-- ADC r and ADC M (R145). -/
def execAdc (src : Operand) (s : State) : Result :=
  let s := s.advance 1
  .next (s.addToA (s.operand src) s.flags.cy)

/-- SUB r and SUB M (R146). -/
def execSub (src : Operand) (s : State) : Result :=
  let s := s.advance 1
  .next (s.subFromA Config.hardware (s.operand src) false)

/-- SBB r and SBB M (R147). -/
def execSbb (src : Operand) (s : State) : Result :=
  let s := s.advance 1
  .next (s.subFromA Config.hardware (s.operand src) (s.flags.borrowIn Config.hardware))

/-- ANA r and ANA M (R148). -/
def execAna (src : Operand) (s : State) : Result :=
  let s := s.advance 1
  .next (s.logicToA Config.hardware (s.a &&& (s.operand src)))

/-- XRA r and XRA M (R149). -/
def execXra (src : Operand) (s : State) : Result :=
  let s := s.advance 1
  .next (s.logicToA Config.hardware (s.a ^^^ (s.operand src)))

/-- ORA r and ORA M (R150). -/
def execOra (src : Operand) (s : State) : Result :=
  let s := s.advance 1
  .next (s.logicToA Config.hardware (s.a ||| (s.operand src)))

/-- CMP r and CMP M (R151). -/
def execCmp (src : Operand) (s : State) : Result :=
  let s := s.advance 1
  .next (s.compareA Config.hardware (s.operand src))

end Sys2Proof.Machine
end

