-- ==== Sys2Proof/Machine/ControlTransfer.lean ====
section
/-! DEFINITION. Control transfer (44_control_transfer.md). The PC holds `next` before the transfer (00_scope.md R15), so all operand
bytes are consumed whether or not a condition holds (R233). -/

namespace Sys2Proof.Machine

/-- JMP a16 (R204). -/
def execJmp (addr : Word) (s : State) : Result :=
  let s := s.advance 3
  .next (s.setPC addr)

/-- JNZ a16 (R205). -/
def execJnz (addr : Word) (s : State) : Result :=
  let s := s.advance 3
  .next (s.jumpIf .NZ addr)

/-- JZ a16 (R206). -/
def execJz (addr : Word) (s : State) : Result :=
  let s := s.advance 3
  .next (s.jumpIf .Z addr)

/-- JNC a16 (R207). -/
def execJnc (addr : Word) (s : State) : Result :=
  let s := s.advance 3
  .next (s.jumpIf .NC addr)

/-- JC a16 (R208). -/
def execJc (addr : Word) (s : State) : Result :=
  let s := s.advance 3
  .next (s.jumpIf .C addr)

/-- JPO a16 (R209). -/
def execJpo (addr : Word) (s : State) : Result :=
  let s := s.advance 3
  .next (s.jumpIf .PO addr)

/-- JPE a16 (R210). -/
def execJpe (addr : Word) (s : State) : Result :=
  let s := s.advance 3
  .next (s.jumpIf .PE addr)

/-- JP a16 (R211). -/
def execJp (addr : Word) (s : State) : Result :=
  let s := s.advance 3
  .next (s.jumpIf .P addr)

/-- JM a16 (R212). -/
def execJm (addr : Word) (s : State) : Result :=
  let s := s.advance 3
  .next (s.jumpIf .M addr)

/-- CALL a16 (R213): the address of the following instruction is pushed. -/
def execCall (addr : Word) (s : State) : Result :=
  let s := s.advance 3
  .next (s.callTo addr)

/-- CNZ a16 (R214). -/
def execCnz (addr : Word) (s : State) : Result :=
  let s := s.advance 3
  .next (s.callIf .NZ addr)

/-- CZ a16 (R215). -/
def execCz (addr : Word) (s : State) : Result :=
  let s := s.advance 3
  .next (s.callIf .Z addr)

/-- CNC a16 (R216). -/
def execCnc (addr : Word) (s : State) : Result :=
  let s := s.advance 3
  .next (s.callIf .NC addr)

/-- CC a16 (R217). -/
def execCc (addr : Word) (s : State) : Result :=
  let s := s.advance 3
  .next (s.callIf .C addr)

/-- CPO a16 (R218). -/
def execCpo (addr : Word) (s : State) : Result :=
  let s := s.advance 3
  .next (s.callIf .PO addr)

/-- CPE a16 (R219). -/
def execCpe (addr : Word) (s : State) : Result :=
  let s := s.advance 3
  .next (s.callIf .PE addr)

/-- CP a16 (R220). -/
def execCp (addr : Word) (s : State) : Result :=
  let s := s.advance 3
  .next (s.callIf .P addr)

/-- CM a16 (R221). -/
def execCm (addr : Word) (s : State) : Result :=
  let s := s.advance 3
  .next (s.callIf .M addr)

/-- RET (R222). -/
def execRet (s : State) : Result :=
  let s := s.advance 1
  .next (s.returnFromCall)

/-- RNZ (R223). -/
def execRnz (s : State) : Result :=
  let s := s.advance 1
  .next (s.returnIf .NZ)

/-- RZ (R224). -/
def execRz (s : State) : Result :=
  let s := s.advance 1
  .next (s.returnIf .Z)

/-- RNC (R225). -/
def execRnc (s : State) : Result :=
  let s := s.advance 1
  .next (s.returnIf .NC)

/-- RC (R226). -/
def execRc (s : State) : Result :=
  let s := s.advance 1
  .next (s.returnIf .C)

/-- RPO (R227). -/
def execRpo (s : State) : Result :=
  let s := s.advance 1
  .next (s.returnIf .PO)

/-- RPE (R228). -/
def execRpe (s : State) : Result :=
  let s := s.advance 1
  .next (s.returnIf .PE)

/-- RP (R229). -/
def execRp (s : State) : Result :=
  let s := s.advance 1
  .next (s.returnIf .P)

/-- RM (R230). -/
def execRm (s : State) : Result :=
  let s := s.advance 1
  .next (s.returnIf .M)

/-- RST n (R231): a call of `8 * n` whose return address is one byte past the RST. -/
def execRst (n : Fin 8) (s : State) : Result :=
  let s := s.advance 1
  .next (s.callTo (BitVec.ofNat 16 (8 * n.val)))

/-- PCHL (R232). -/
def execPchl (s : State) : Result :=
  let s := s.advance 1
  .next (s.setPC s.hl)

end Sys2Proof.Machine
end

