-- ==== Sys2Proof/Machine/Count.lean ====
section
/-! DEFINITION. Increment and decrement of a register or of the cell at HL (41_arithmetic_logic.md R160 to R163): Z, S, P follow the
result, Carry is never written. -/

namespace Sys2Proof.Machine

/-- INR r (R160). -/
def execInrR (dst : Reg) (s : State) : Result :=
  let s := s.advance 1
  .next (s.countReg dst (s.getReg dst + 1))

/-- INR M (R161). -/
def execInrM (s : State) : Result :=
  let s := s.advance 1
  .next (s.countM (s.readByte s.hl + 1))

/-- DCR r (R162). -/
def execDcrR (dst : Reg) (s : State) : Result :=
  let s := s.advance 1
  .next (s.countReg dst (s.getReg dst - 1))

/-- DCR M (R163). -/
def execDcrM (s : State) : Result :=
  let s := s.advance 1
  .next (s.countM (s.readByte s.hl - 1))

end Sys2Proof.Machine
end

