-- ==== Sys2Proof/Machine/DataMovement.lean ====
section
/-! DEFINITION. Data movement (40_data_movement.md). No flag is read or written (R110). -/

namespace Sys2Proof.Machine

/-- MOV r1,r2 (R111). -/
def execMovRR (dst src : Reg) (s : State) : Result :=
  let s := s.advance 1
  .next (s.setReg dst (s.getReg src))

/-- MOV r,M (R112): the address is formed from the old HL. -/
def execMovRM (dst : Reg) (s : State) : Result :=
  let s := s.advance 1
  .next (s.setReg dst (s.readByte s.hl))

/-- MOV M,r (R113). -/
def execMovMR (src : Reg) (s : State) : Result :=
  let s := s.advance 1
  .next (s.writeByte s.hl (s.getReg src))

/-- MVI r,d8 (R114). -/
def execMviR (dst : Reg) (imm : Byte) (s : State) : Result :=
  let s := s.advance 2
  .next (s.setReg dst imm)

/-- MVI M,d8 (R115). -/
def execMviM (imm : Byte) (s : State) : Result :=
  let s := s.advance 2
  .next (s.writeByte s.hl imm)

/-- LXI rp,d16 (R116). -/
def execLxi (rp : Pair) (imm : Word) (s : State) : Result :=
  let s := s.advance 3
  .next (s.setPair rp imm)

/-- LDAX rp (R117). -/
def execLdax (rp : IndexPair) (s : State) : Result :=
  let s := s.advance 1
  .next (s.setReg .A (s.readByte (s.indexAddress rp)))

/-- STAX rp (R118). -/
def execStax (rp : IndexPair) (s : State) : Result :=
  let s := s.advance 1
  .next (s.writeByte (s.indexAddress rp) s.a)

/-- LDA a16 (R119). -/
def execLda (addr : Word) (s : State) : Result :=
  let s := s.advance 3
  .next (s.setReg .A (s.readByte addr))

/-- STA a16 (R120). -/
def execSta (addr : Word) (s : State) : Result :=
  let s := s.advance 3
  .next (s.writeByte addr s.a)

/-- LHLD a16 (R121): L from the address, H from the next, mod 65536. -/
def execLhld (addr : Word) (s : State) : Result :=
  let s := s.advance 3
  .next (s.setHL (s.readWord addr))

/-- SHLD a16 (R122): L to the address, H to the next, mod 65536. -/
def execShld (addr : Word) (s : State) : Result :=
  let s := s.advance 3
  .next (s.writeWord addr s.hl)

end Sys2Proof.Machine
end

