-- ==== Sys2Proof/Machine/Immediate.lean ====
section
/-! DEFINITION. The eight accumulator operations with an immediate byte (41_arithmetic_logic.md R152 to R159). -/

namespace Sys2Proof.Machine

/-- ADI d8 (R152). -/
def execAdi (imm : Byte) (s : State) : Result :=
  let s := s.advance 2
  .next (s.addToA imm false)

/-- ACI d8 (R153). -/
def execAci (imm : Byte) (s : State) : Result :=
  let s := s.advance 2
  .next (s.addToA imm s.flags.cy)

/-- SUI d8 (R154). -/
def execSui (imm : Byte) (s : State) : Result :=
  let s := s.advance 2
  .next (s.subFromA Config.hardware imm false)

/-- SBI d8 (R155). -/
def execSbi (imm : Byte) (s : State) : Result :=
  let s := s.advance 2
  .next (s.subFromA Config.hardware imm (s.flags.borrowIn Config.hardware))

/-- ANI d8 (R156). -/
def execAni (imm : Byte) (s : State) : Result :=
  let s := s.advance 2
  .next (s.logicToA Config.hardware (s.a &&& imm))

/-- XRI d8 (R157). -/
def execXri (imm : Byte) (s : State) : Result :=
  let s := s.advance 2
  .next (s.logicToA Config.hardware (s.a ^^^ imm))

/-- ORI d8 (R158). -/
def execOri (imm : Byte) (s : State) : Result :=
  let s := s.advance 2
  .next (s.logicToA Config.hardware (s.a ||| imm))

/-- CPI d8 (R159). -/
def execCpi (imm : Byte) (s : State) : Result :=
  let s := s.advance 2
  .next (s.compareA Config.hardware imm)

end Sys2Proof.Machine
end

