-- ==== Sys2Proof/Machine/Misc.lean ====
section
/-! DEFINITION. Miscellaneous instructions (46_misc.md R270 to R278). -/

namespace Sys2Proof.Machine

/-- NOP (R271). -/
def execNop (s : State) : Result :=
  .next (s.advance 1)

/-- XCHG (R272). -/
def execXchg (s : State) : Result :=
  let s := s.advance 1
  .next ((s.setDE s.hl).setHL s.de)

/-- CMA (R273): no flag. -/
def execCma (s : State) : Result :=
  let s := s.advance 1
  .next (s.setReg .A (~~~s.a))

/-- CMC (R274). -/
def execCmc (s : State) : Result :=
  let s := s.advance 1
  .next (s.setFlags (s.flags.withCarry (!s.flags.cy)))

/-- DI (R275). -/
def execDi (s : State) : Result :=
  let s := s.advance 1
  .next (s.setInte false)

/-- EI (R276): INTE is 1 at once, and no request comes for `EI_DELAY` instructions, 0 on this hardware. -/
def execEi (s : State) : Result :=
  let s := s.advance 1
  .next ((s.setInte true).delayRequests Config.hardware.eiDelay)

/-- HLT (R277): PC is the address after it. -/
def execHlt (s : State) : Result :=
  let s := s.advance 1
  .next ({ s with halted := true })

/-- STC (R278). -/
def execStc (s : State) : Result :=
  let s := s.advance 1
  .next (s.setFlags (s.flags.withCarry true))

end Sys2Proof.Machine
end

