-- ==== Sys2Proof/Machine/Ports.lean ====
section
/-! DEFINITION. Port input and output (47_io.md). No flag is read or written. -/

namespace Sys2Proof.Machine

/-- IN port (R292): A takes the byte the peripheral answers, one draw per IN (R291). -/
def execInp (port : Byte) (s : State) : Result :=
  let s := s.advance 2
  .next ((s.setReg .A (s.portAnswer port)).afterPortRead)

/-- OUT port (R293): the peripheral gets the port number and A. -/
def execOutp (port : Byte) (s : State) : Result :=
  let s := s.advance 2
  .next (s.portWrite port s.a)

end Sys2Proof.Machine
end

