-- ==== Sys2Proof/Machine/Rotates.lean ====
section
/-! DEFINITION. Rotates of A by one bit (43_rotates.md R190): Carry is the only flag written. -/

namespace Sys2Proof.Machine

/-- RLC (R191): bit 7 goes to bit 0 and to Carry. -/
def execRlc (s : State) : Result :=
  let s := s.advance 1
  .next (s.rotateA ((s.a <<< 1) ||| BitVec.zeroExtend 8 (BitVec.ofBool s.a[7])) s.a[7])

/-- RRC (R192): bit 0 goes to bit 7 and to Carry. -/
def execRrc (s : State) : Result :=
  let s := s.advance 1
  .next (s.rotateA ((s.a >>> 1) ||| (BitVec.zeroExtend 8 (BitVec.ofBool s.a[0]) <<< 7)) s.a[0])

/-- RAL (R193): the old Carry goes to bit 0, bit 7 to Carry. -/
def execRal (s : State) : Result :=
  let s := s.advance 1
  .next (s.rotateA ((s.a <<< 1) ||| BitVec.zeroExtend 8 (BitVec.ofBool s.flags.cy)) s.a[7])

/-- RAR (R194): the old Carry goes to bit 7, bit 0 to Carry. -/
def execRar (s : State) : Result :=
  let s := s.advance 1
  .next (s.rotateA ((s.a >>> 1) ||| (BitVec.zeroExtend 8 (BitVec.ofBool s.flags.cy) <<< 7)) s.a[0])

end Sys2Proof.Machine
end

