-- ==== Sys2Proof/Machine/Stack.lean ====
section
/-! DEFINITION. Stack instructions and the PSW (45_stack.md). -/

namespace Sys2Proof.Machine

/-- PUSH rp (R251). -/
def execPush (rp : StackPair) (s : State) : Result :=
  let s := s.advance 1
  .next (s.push16 (s.getStackPair rp))

/-- POP rp (R252). -/
def execPop (rp : StackPair) (s : State) : Result :=
  let s := s.advance 1
  .next (s.dropTop.setStackPair rp s.popValue)

/-- PUSH PSW (R256): A is the high byte, the flag byte the low one. -/
def execPushPsw (s : State) : Result :=
  let s := s.advance 1
  .next (s.push16 (joinBytes s.a s.flags.pack))

/-- POP PSW (R257): all five flags from the low byte, A from the high one. -/
def execPopPsw (s : State) : Result :=
  let s := s.advance 1
  let w := s.popValue
  .next ((s.dropTop.setFlags (Flags.unpack (loByte w))).setReg .A (hiByte w))

/-- XTHL (R258): both cells are read before either is written. -/
def execXthl (s : State) : Result :=
  let s := s.advance 1
  .next ((s.writeWord s.sp s.hl).setHL (s.readWord s.sp))

/-- SPHL (R259). -/
def execSphl (s : State) : Result :=
  let s := s.advance 1
  .next (s.setSP s.hl)

end Sys2Proof.Machine
end

