-- ==== Sys2Proof/Machine/Unimplemented.lean ====
section
/-! DEFINITION. The thirteen opcode bytes that fault (48_unimplemented.md R300 to R305): each takes the one
exception of the core, the PC staying at the faulting byte (60_exceptions.md R310). -/

namespace Sys2Proof.Machine

/-- 0x27, DAA on Intel's 8080 (R301). -/
def execDaa (s : State) : Result :=
  .next (s.raiseUnimplemented Instr.daa.opcode)

/-- 0x08 to 0x38 (R302). -/
def execUndoc00 (n : Fin 8) (s : State) : Result :=
  .next (s.raiseUnimplemented (Instr.undoc00 n).opcode)

/-- 0xCB (R303). -/
def execUndocCB (s : State) : Result :=
  .next (s.raiseUnimplemented Instr.undocCB.opcode)

/-- 0xD9 (R304). -/
def execUndocD9 (s : State) : Result :=
  .next (s.raiseUnimplemented Instr.undocD9.opcode)

/-- 0xDD, 0xED, 0xFD (R305). -/
def execUndocXD (p : Fin 4) (s : State) : Result :=
  .next (s.raiseUnimplemented (Instr.undocXD p).opcode)

end Sys2Proof.Machine
end

