-- ==== Sys2Proof/Machine/Dispatch.lean ====
section
/-! DEFINITION. One arm per constructor of `Instr`, each one direct call of its meaning. -/

namespace Sys2Proof.Machine

/-- What executing an instruction does, the PC being the address of its opcode byte (00_scope.md R15 steps 3, 5 and 6). -/
def exec (i : Instr) (s : State) : Host.Outcome State Fault Refusal :=
  match i with
  | .movRR dst src => Sys2Proof.Machine.execMovRR dst src s
  | .movRM dst => Sys2Proof.Machine.execMovRM dst s
  | .movMR src => Sys2Proof.Machine.execMovMR src s
  | .mviR dst imm => Sys2Proof.Machine.execMviR dst imm s
  | .mviM imm => Sys2Proof.Machine.execMviM imm s
  | .lxi rp imm => Sys2Proof.Machine.execLxi rp imm s
  | .ldax rp => Sys2Proof.Machine.execLdax rp s
  | .stax rp => Sys2Proof.Machine.execStax rp s
  | .lda addr => Sys2Proof.Machine.execLda addr s
  | .sta addr => Sys2Proof.Machine.execSta addr s
  | .lhld addr => Sys2Proof.Machine.execLhld addr s
  | .shld addr => Sys2Proof.Machine.execShld addr s
  | .add src => Sys2Proof.Machine.execAdd src s
  | .adc src => Sys2Proof.Machine.execAdc src s
  | .sub src => Sys2Proof.Machine.execSub src s
  | .sbb src => Sys2Proof.Machine.execSbb src s
  | .ana src => Sys2Proof.Machine.execAna src s
  | .xra src => Sys2Proof.Machine.execXra src s
  | .ora src => Sys2Proof.Machine.execOra src s
  | .cmp src => Sys2Proof.Machine.execCmp src s
  | .adi imm => Sys2Proof.Machine.execAdi imm s
  | .aci imm => Sys2Proof.Machine.execAci imm s
  | .sui imm => Sys2Proof.Machine.execSui imm s
  | .sbi imm => Sys2Proof.Machine.execSbi imm s
  | .ani imm => Sys2Proof.Machine.execAni imm s
  | .xri imm => Sys2Proof.Machine.execXri imm s
  | .ori imm => Sys2Proof.Machine.execOri imm s
  | .cpi imm => Sys2Proof.Machine.execCpi imm s
  | .inrR dst => Sys2Proof.Machine.execInrR dst s
  | .inrM => Sys2Proof.Machine.execInrM s
  | .dcrR dst => Sys2Proof.Machine.execDcrR dst s
  | .dcrM => Sys2Proof.Machine.execDcrM s
  | .inx rp => Sys2Proof.Machine.execInx rp s
  | .dcx rp => Sys2Proof.Machine.execDcx rp s
  | .dad rp => Sys2Proof.Machine.execDad rp s
  | .rlc => Sys2Proof.Machine.execRlc s
  | .rrc => Sys2Proof.Machine.execRrc s
  | .ral => Sys2Proof.Machine.execRal s
  | .rar => Sys2Proof.Machine.execRar s
  | .jmp addr => Sys2Proof.Machine.execJmp addr s
  | .jnz addr => Sys2Proof.Machine.execJnz addr s
  | .jz addr => Sys2Proof.Machine.execJz addr s
  | .jnc addr => Sys2Proof.Machine.execJnc addr s
  | .jc addr => Sys2Proof.Machine.execJc addr s
  | .jpo addr => Sys2Proof.Machine.execJpo addr s
  | .jpe addr => Sys2Proof.Machine.execJpe addr s
  | .jp addr => Sys2Proof.Machine.execJp addr s
  | .jm addr => Sys2Proof.Machine.execJm addr s
  | .call addr => Sys2Proof.Machine.execCall addr s
  | .cnz addr => Sys2Proof.Machine.execCnz addr s
  | .cz addr => Sys2Proof.Machine.execCz addr s
  | .cnc addr => Sys2Proof.Machine.execCnc addr s
  | .cc addr => Sys2Proof.Machine.execCc addr s
  | .cpo addr => Sys2Proof.Machine.execCpo addr s
  | .cpe addr => Sys2Proof.Machine.execCpe addr s
  | .cp addr => Sys2Proof.Machine.execCp addr s
  | .cm addr => Sys2Proof.Machine.execCm addr s
  | .ret => Sys2Proof.Machine.execRet s
  | .rnz => Sys2Proof.Machine.execRnz s
  | .rz => Sys2Proof.Machine.execRz s
  | .rnc => Sys2Proof.Machine.execRnc s
  | .rc => Sys2Proof.Machine.execRc s
  | .rpo => Sys2Proof.Machine.execRpo s
  | .rpe => Sys2Proof.Machine.execRpe s
  | .rp => Sys2Proof.Machine.execRp s
  | .rm => Sys2Proof.Machine.execRm s
  | .rst n => Sys2Proof.Machine.execRst n s
  | .pchl => Sys2Proof.Machine.execPchl s
  | .push rp => Sys2Proof.Machine.execPush rp s
  | .pop rp => Sys2Proof.Machine.execPop rp s
  | .pushPsw => Sys2Proof.Machine.execPushPsw s
  | .popPsw => Sys2Proof.Machine.execPopPsw s
  | .xthl => Sys2Proof.Machine.execXthl s
  | .sphl => Sys2Proof.Machine.execSphl s
  | .nop => Sys2Proof.Machine.execNop s
  | .xchg => Sys2Proof.Machine.execXchg s
  | .cma => Sys2Proof.Machine.execCma s
  | .cmc => Sys2Proof.Machine.execCmc s
  | .di => Sys2Proof.Machine.execDi s
  | .ei => Sys2Proof.Machine.execEi s
  | .hlt => Sys2Proof.Machine.execHlt s
  | .stc => Sys2Proof.Machine.execStc s
  | .inp port => Sys2Proof.Machine.execInp port s
  | .outp port => Sys2Proof.Machine.execOutp port s
  | .daa => Sys2Proof.Machine.execDaa s
  | .undoc00 n => Sys2Proof.Machine.execUndoc00 n s
  | .undocCB => Sys2Proof.Machine.execUndocCB s
  | .undocD9 => Sys2Proof.Machine.execUndocD9 s
  | .undocXD p => Sys2Proof.Machine.execUndocXD p s

end Sys2Proof.Machine
end

