-- ==== Sys2Proof/Machine/Execute.lean ====
section
/-! DEFINITION. Fetching an instruction's bytes and running it: what the executor does at a boundary where no
interrupt is accepted (00_scope.md R15 steps 2 to 6), and where an instruction is placed to be fetched next. -/

namespace Sys2Proof.Machine

/-- The bytes of the instruction at PC: the opcode byte, then as many operand bytes as it has, at consecutive
addresses mod 65536 (R15 steps 2 and 4; 30_encoding.md R80, R90). A faulting byte has no operand byte (R90). -/
def State.fetch (s : State) : List Byte :=
  (List.range (opcodeLength (s.readByte s.pc))).map fun k => s.readByte (s.pc + BitVec.ofNat 16 k)

/-- Fetch, decode and execute one whole instruction (R15 steps 2 to 6). -/
def State.executorStep (s : State) : Result :=
  match decode s.fetch with
  | .ok (i, _) => exec i s
  | .error _ => .refused .undecodable

/-- Bytes stored at consecutive addresses, mod 65536. -/
def State.placeBytes (s : State) (addr : Word) : List Byte → State
  | [] => s
  | v :: vs => (s.writeByte addr v).placeBytes (addr + 1) vs

/-- No interrupt is requested at this boundary: the interrupt source's choice here, listed or free, becomes none. -/
def State.withoutRequest (s : State) : State :=
  if s.inte then { s with irqs := none :: s.irqs.tail } else s

end Sys2Proof.Machine
end

