-- ==== Sys2Proof/Machine/Step.lean ====
section
/-! DEFINITION. One step of the machine: it stops where the executor has no step, accepts the interrupt the source
requests at this boundary, or runs one instruction (00_scope.md R15, R16; 60_exceptions.md R317). -/

namespace Sys2Proof.Machine

/-- One step. While FAULT or HALTED is 1 there is none (R15 step 1). Where INTE is 1 and the interrupt source makes a
request, the acceptance is the step and comes before the next fetch (60_exceptions.md R317); otherwise the step is
the executor's. -/
def step (s : State) : Host.Outcome State Fault Refusal :=
  if s.fault then .fault .faulted
  else if s.halted then .fault .halted
  else
    match s.request with
    | some n => .next (s.afterRequest.acceptInterrupt n)
    | none => s.afterRequest.executorStep

/-- `s` with the instruction whose bits are `w` (numbered as spec/opcode_table.json numbers them, the bits above
`nbits` zero, up to the longest instruction) at PC, where `step` fetches next. An interrupt request at this boundary,
which would be accepted before the fetch, is withdrawn. -/
def State.withFetchWord (s : State) (nbits w : Nat) : State :=
  (s.placeBytes s.pc (tableBytes nbits w)).withoutRequest

end Sys2Proof.Machine
end

