-- ==== Sys2Proof/Safety.lean ====
section
/-! DEFINITION. The terms claims are stated in: a running and an ended machine, and the invariants every step
keeps. -/

namespace Sys2Proof.Machine

/-- The executor has a step (00_scope.md R15 step 1). -/
def State.running (s : State) : Bool := !s.halted && !s.fault

/-- The run has ended normally (00_scope.md R16). -/
def State.endedWell (s : State) : Bool := s.halted && !s.fault

/-- The run has ended in the fault, which no claim may call good (00_scope.md R16). -/
def State.endedInFault (s : State) : Bool := s.fault

/-- Memory is in its canonical form. -/
def State.memCanonical (s : State) : Bool := Memory.wf s.mem

/-- Once FAULT is 1 the record names the byte at PC, PC is its address, and the byte is one that has no instruction
(10_state.md R33, 60_exceptions.md R310, R313). -/
def State.faultRecorded (s : State) : Bool :=
  !s.fault || (s.record.addr == s.pc && s.record.op == s.readByte s.pc &&
    Config.hardware.unimplemented.contains s.record.op)

/-- A run ends once: HALTED and FAULT are never 1 together (00_scope.md R16, 60_exceptions.md R310). -/
def State.oneEnd (s : State) : Bool := !(s.halted && s.fault)

/-- The invariant of the machine: the three parts above together. -/
def State.Inv (s : State) : Bool := s.memCanonical && s.faultRecorded && s.oneEnd

end Sys2Proof.Machine
end

