-- ==== Sys2Proof/Certificates/Slice0/Obligations.lean ====
section
/-! DEFINITION. The statements for the provers, and the words of the spec they are written in (`Spec`): register, pair
and condition codes as numbers, encodings as bytes, values as natural numbers, and what an instruction leaves alone.
A statement about an instruction gives its encoding, that it completes in every state, what it writes, and its
frame. -/

namespace Sys2Proof.Spec

open Sys2Proof.Machine

/-! ### Codes and encodings (30_encoding.md R81 to R88) -/

/-- The register codes (R84). -/
def regCode : Reg → Nat
  | .B => 0
  | .C => 1
  | .D => 2
  | .E => 3
  | .H => 4
  | .L => 5
  | .A => 7

/-- The operand codes: 6 is `M` (R84). -/
def operandCode : Operand → Nat
  | .reg r => regCode r
  | .M => 6

/-- The pair codes of LXI, INX, DCX and DAD (R85). -/
def pairCode : Pair → Nat
  | .BC => 0
  | .DE => 1
  | .HL => 2
  | .SP => 3

/-- The pair codes of PUSH rp and POP rp (R85). -/
def stackPairCode : StackPair → Nat
  | .BC => 0
  | .DE => 1
  | .HL => 2

/-- The pair codes of LDAX and STAX (R85). -/
def indexPairCode : IndexPair → Nat
  | .BC => 0
  | .DE => 1

/-- `{hi, lo} = hi * 256 + lo` (00_scope.md R6). -/
def word (hi lo : Byte) : Word := BitVec.ofNat 16 (hi.toNat * 256 + lo.toNat)

/-- The one byte `op` is the instruction `i` (format F1). -/
def EncodesF1 (op : Nat) (i : Instr) : Prop :=
  ∀ rest, decode (BitVec.ofNat 8 op :: rest) = .ok (i, rest)

/-- The byte `op` and an immediate byte are the instruction `i imm` (format F2). -/
def EncodesF2 (op : Nat) (i : Byte → Instr) : Prop :=
  ∀ imm rest, decode (BitVec.ofNat 8 op :: imm :: rest) = .ok (i imm, rest)

/-- The byte `op`, a low byte and a high byte are the instruction `i` of the 16-bit operand (format F3). -/
def EncodesF3 (op : Nat) (i : Word → Instr) : Prop :=
  ∀ lo hi rest, decode (BitVec.ofNat 8 op :: lo :: hi :: rest) = .ok (i (word hi lo), rest)

/-- The thirteen faulting bytes (30_encoding.md R93, 48_unimplemented.md R300). -/
def faultingBytes : List Byte :=
  [0x27, 0x08, 0x10, 0x18, 0x20, 0x28, 0x30, 0x38, 0xCB, 0xD9, 0xDD, 0xED, 0xFD]

/-- The rows of the opcode table that fault. -/
def isFaultingRow : Instr → Bool
  | .daa | .undoc00 _ | .undocCB | .undocD9 | .undocXD _ => true
  | _ => false

/-! ### Values -/

/-- The second operand of the accumulator operations (41_arithmetic_logic.md R140). -/
def operandValue (s : State) : Operand → Byte
  | .reg r => s.getReg r
  | .M => s.readByte s.hl

/-- A pair or SP as a number, the first register named its high byte (10_state.md R21). -/
def pairValue (s : State) : Pair → Nat
  | .BC => s.b.toNat * 256 + s.c.toNat
  | .DE => s.d.toNat * 256 + s.e.toNat
  | .HL => s.h.toNat * 256 + s.l.toNat
  | .SP => s.sp.toNat

/-- The registers of a pair; SP is none of the seven. -/
def pairRegs : Pair → List Reg
  | .BC => [.B, .C]
  | .DE => [.D, .E]
  | .HL => [.H, .L]
  | .SP => []

/-- The pair of PUSH and POP as one of the pairs above. -/
def stackPair : StackPair → Pair
  | .BC => .BC
  | .DE => .DE
  | .HL => .HL

/-- Z, S and P are those of the byte `res` (10_state.md R27): Z for 0, S for bit 7, P for an even number of 1 bits. -/
def ZspOf (f : Flags) (res : Byte) : Prop :=
  (f.z = true ↔ res.toNat = 0) ∧ (f.s = true ↔ 128 ≤ res.toNat) ∧
    (f.p = true ↔ (List.range 8).countP (fun i => res.getLsbD i) % 2 = 0)

/-! ### Frames -/

/-- Every register but those listed holds what it held. -/
def SameRegsBut (rs : List Reg) (s t : State) : Prop := ∀ r, r ∉ rs → t.getReg r = s.getReg r

/-- Every byte of memory but those at the addresses listed reads as before. -/
def SameMemoryBut (xs : List Word) (s t : State) : Prop := ∀ x, x ∉ xs → t.readByte x = s.readByte x

/-- INTE, HALTED, FAULT and the fault record are as before. -/
def SameControl (s t : State) : Prop :=
  t.inte = s.inte ∧ t.halted = s.halted ∧ t.fault = s.fault ∧ t.record = s.record

/-- No choice of the interrupt source is used up (the choices: assumption log 3, the model's own). -/
def SameChoices (s t : State) : Prop := t.irqs = s.irqs ∧ t.choices = s.choices

/-- No port event and no draw has happened, and no choice of the interrupt source is used up. -/
def SamePorts (s t : State) : Prop :=
  t.portOut = s.portOut ∧ t.portIn = s.portIn ∧ t.draws = s.draws ∧ SameChoices s t

/-- All but PC, SP and the flags is as before, but for the registers and the memory bytes listed. -/
def RestBut (rs : List Reg) (xs : List Word) (s t : State) : Prop :=
  SameRegsBut rs s t ∧ SameMemoryBut xs s t ∧ SameControl s t ∧ SamePorts s t

/-- PC is `len` bytes on, mod 65536, SP and the flags are as before, and the rest but what is listed. -/
def Moves (len : Nat) (rs : List Reg) (xs : List Word) (s t : State) : Prop :=
  t.pc = s.pc + BitVec.ofNat 16 len ∧ t.sp = s.sp ∧ t.flags = s.flags ∧ RestBut rs xs s t

/-- As `Moves`, but that some flags are written; AC is not. -/
def Computes (len : Nat) (rs : List Reg) (xs : List Word) (s t : State) : Prop :=
  t.pc = s.pc + BitVec.ofNat 16 len ∧ t.sp = s.sp ∧ t.flags.ac = s.flags.ac ∧ RestBut rs xs s t

/-! ### The shapes the families share -/

/-- `A <- add8(A, v, cin)`: the sum mod 256, CY when it passes 255, Z S P from the result (R141). -/
def Adds (len : Nat) (v : Byte) (cin : Nat) (s t : State) : Prop :=
  t.a.toNat = (s.a.toNat + v.toNat + cin) % 256 ∧ (t.flags.cy = true ↔ 255 < s.a.toNat + v.toNat + cin) ∧
    ZspOf t.flags t.a ∧ Computes len [.A] [] s t

/-- `A <- sub8(A, v, bin)`: the difference mod 256, CY exactly when it borrows, Z S P from the result (R142). -/
def Subtracts (len : Nat) (v : Byte) (bin : Nat) (s t : State) : Prop :=
  t.a.toNat = (s.a.toNat + 512 - v.toNat - bin) % 256 ∧ (t.flags.cy = true ↔ s.a.toNat < v.toNat + bin) ∧
    ZspOf t.flags t.a ∧ Computes len [.A] [] s t

/-- The flags of `sub8(A, v, 0)`, and A kept (R151, R159). -/
def Compares (len : Nat) (v : Byte) (s t : State) : Prop :=
  (∃ res : Byte, res.toNat = (s.a.toNat + 256 - v.toNat) % 256 ∧ ZspOf t.flags res) ∧
    (t.flags.cy = true ↔ s.a.toNat < v.toNat) ∧ Computes len [] [] s t

/-- A takes the result of a logic operation bit by bit; Z S P from it, CY unchanged (R143). -/
def Logic (len : Nat) (bit : Bool → Bool → Bool) (v : Byte) (s t : State) : Prop :=
  (∀ k : Fin 8, t.a.getLsbD k = bit (s.a.getLsbD k) (v.getLsbD k)) ∧ t.flags.cy = s.flags.cy ∧
    ZspOf t.flags t.a ∧ Computes len [.A] [] s t

/-- A rotate: A takes `res`, CY is 1 exactly when `out` holds; Z, S, P and AC are not written (R190). -/
def Rotates (res : Nat) (out : Prop) (s t : State) : Prop :=
  t.a.toNat = res ∧ (t.flags.cy = true ↔ out) ∧ t.flags.z = s.flags.z ∧ t.flags.s = s.flags.s ∧
    t.flags.p = s.flags.p ∧ Computes 1 [.A] [] s t

/-- `push16(v)`: the high byte at SP - 1, the low byte at SP - 2, SP down by 2 (44_control_transfer.md R200). -/
def Pushes (v : Nat) (s t : State) : Prop :=
  (t.readByte (s.sp - 1)).toNat = v / 256 ∧ (t.readByte (s.sp - 2)).toNat = v % 256 ∧ t.sp = s.sp - 2

/-- What `pop16()` returns: the low byte at SP, the high byte at SP + 1 (R201). -/
def topOfStack (s : State) : Nat := (s.readByte (s.sp + 1)).toNat * 256 + (s.readByte s.sp).toNat

/-- A call from the address `len` bytes before `next`: `next` is pushed, control goes to the target (R202). -/
def Calls (len : Nat) (target : Word) (s t : State) : Prop :=
  Pushes (s.pc + BitVec.ofNat 16 len).toNat s t ∧ t.pc = target ∧ t.flags = s.flags ∧
    RestBut [] [s.sp - 1, s.sp - 2] s t

/-- A return: PC from the two bytes at SP, low byte first, SP up by 2, no cell changed (R201, R202). -/
def Returns (s t : State) : Prop :=
  t.pc.toNat = topOfStack s ∧ t.sp = s.sp + 2 ∧ t.flags = s.flags ∧ RestBut [] [] s t

/-- A conditional jump: to the operand where the flag has the value, else three bytes on and nothing else (R233). -/
def JumpsWhen (op : Nat) (i : Word → Instr) (flag : Flags → Bool) (value : Bool) : Prop :=
  EncodesF3 op i ∧ ∀ addr s, ∃ t, exec (i addr) s = .next t ∧
    t.pc = (if flag s.flags = value then addr else s.pc + 3) ∧ t.sp = s.sp ∧ t.flags = s.flags ∧ RestBut [] [] s t

/-- A conditional call: a call where the flag has the value, else three bytes on and nothing else (R233). -/
def CallsWhen (op : Nat) (i : Word → Instr) (flag : Flags → Bool) (value : Bool) : Prop :=
  EncodesF3 op i ∧ ∀ addr s, ∃ t, exec (i addr) s = .next t ∧
    if flag s.flags = value then Calls 3 addr s t else Moves 3 [] [] s t

/-- A conditional return: a return where the flag has the value, else one byte on and nothing else (R233). -/
def ReturnsWhen (op : Nat) (i : Instr) (flag : Flags → Bool) (value : Bool) : Prop :=
  EncodesF1 op i ∧ ∀ s, ∃ t, exec i s = .next t ∧
    if flag s.flags = value then Returns s t else Moves 1 [] [] s t

/-- RET in any state that has the SP and the two stack cells of `t` goes to `back`, with the SP of `s`; INTE is not
restored (R234, 60_exceptions.md R318). -/
def ReturnsTo (back : Word) (s t : State) : Prop :=
  ∀ u : State, u.sp = t.sp → u.readByte t.sp = t.readByte t.sp → u.readByte (t.sp + 1) = t.readByte (t.sp + 1) →
    ∃ v, exec .ret u = .next v ∧ v.pc = back ∧ v.sp = s.sp ∧ v.inte = u.inte

/-- The flag byte: Z in bit 0, S in bit 1, P in bit 2, CY in bit 3, AC in bit 4, zeros above (45_stack.md R253). -/
def flagByte (f : Flags) : Nat := f.z.toNat + 2 * f.s.toNat + 4 * f.p.toNat + 8 * f.cy.toNat + 16 * f.ac.toNat

/-- Instructions executed one after the other, each in the state the one before left. -/
def execAll : List Instr → State → Option State
  | [], s => some s
  | i :: is, s =>
    match exec i s with
    | .next t => execAll is t
    | _ => none

/-! ### What an instruction may write (10_state.md R23, R28; 20_memory.md R57) -/

/-- The instructions that write Z, S and P (R28). -/
def writesZsp : Instr → Bool
  | .add _ | .adc _ | .sub _ | .sbb _ | .ana _ | .xra _ | .ora _ | .cmp _
  | .adi _ | .aci _ | .sui _ | .sbi _ | .ani _ | .xri _ | .ori _ | .cpi _
  | .inrR _ | .inrM | .dcrR _ | .dcrM | .popPsw => true
  | _ => false

/-- The instructions that write CY (R28). -/
def writesCarry : Instr → Bool
  | .add _ | .adc _ | .sub _ | .sbb _ | .cmp _ | .adi _ | .aci _ | .sui _ | .sbi _ | .cpi _
  | .dad _ | .rlc | .rrc | .ral | .rar | .stc | .cmc | .popPsw => true
  | _ => false

/-- The registers an instruction writes, each named by its rule. -/
def writtenRegs : Instr → List Reg
  | .movRR d _ | .movRM d | .mviR d _ | .inrR d | .dcrR d => [d]
  | .lxi p _ | .inx p | .dcx p => pairRegs p
  | .ldax _ | .lda _ | .add _ | .adc _ | .sub _ | .sbb _ | .ana _ | .xra _ | .ora _
  | .adi _ | .aci _ | .sui _ | .sbi _ | .ani _ | .xri _ | .ori _
  | .rlc | .rrc | .ral | .rar | .cma | .popPsw | .inp _ => [.A]
  | .lhld _ | .dad _ | .xthl => [.H, .L]
  | .pop p => pairRegs (stackPair p)
  | .xchg => [.D, .E, .H, .L]
  | _ => []

/-- Whether a conditional call is taken (44_control_transfer.md R203, R214 to R221). -/
def callTaken (f : Flags) : Instr → Bool
  | .cnz _ => f.z == false
  | .cz _ => f.z == true
  | .cnc _ => f.cy == false
  | .cc _ => f.cy == true
  | .cpo _ => f.p == false
  | .cpe _ => f.p == true
  | .cp _ => f.s == false
  | .cm _ => f.s == true
  | _ => false

/-- Whether a conditional return is taken (44_control_transfer.md R203, R223 to R230). -/
def returnTaken (f : Flags) : Instr → Bool
  | .rnz => f.z == false
  | .rz => f.z == true
  | .rnc => f.cy == false
  | .rc => f.cy == true
  | .rpo => f.p == false
  | .rpe => f.p == true
  | .rp => f.s == false
  | .rm => f.s == true
  | _ => false

/-- The instructions that write SP in a state (R23). -/
def writesSp (f : Flags) (i : Instr) : Bool :=
  match i with
  | .lxi .SP _ | .inx .SP | .dcx .SP | .sphl | .push _ | .pop _ | .pushPsw | .popPsw | .call _ | .ret | .rst _ => true
  | _ => callTaken f i || returnTaken f i

/-- The addresses an instruction stores to, as its meaning computes them (R57). -/
def storedTo (i : Instr) (s : State) : List Word :=
  match i with
  | .movMR _ | .mviM _ | .inrM | .dcrM => [s.hl]
  | .stax rp => [s.indexAddress rp]
  | .sta addr => [addr]
  | .shld addr => [addr, addr + 1]
  | .push _ | .pushPsw | .call _ | .rst _ => [s.sp - 1, s.sp - 2]
  | .xthl => [s.sp, s.sp + 1]
  | _ => if callTaken s.flags i then [s.sp - 1, s.sp - 2] else []

/-- The control transfers, whose rules give PC (44_control_transfer.md). -/
def isTransfer : Instr → Bool
  | .jmp _ | .jnz _ | .jz _ | .jnc _ | .jc _ | .jpo _ | .jpe _ | .jp _ | .jm _
  | .call _ | .cnz _ | .cz _ | .cnc _ | .cc _ | .cpo _ | .cpe _ | .cp _ | .cm _
  | .ret | .rnz | .rz | .rnc | .rc | .rpo | .rpe | .rp | .rm | .rst _ | .pchl => true
  | _ => false

end Sys2Proof.Spec

open Sys2Proof Sys2Proof.Machine Sys2Proof.Spec

/-! ### Encoding -/

/-- One or two words of every family, written out from 30_encoding.md R91, decode to the instruction they stand for. -/
def Obligations.FamilyWordsDecode : Prop :=
  decode [0x78] = .ok (.movRR .A .B, []) ∧
  decode [0x36, 0xFF] = .ok (.mviM 0xFF, []) ∧
  decode [0x11, 0xCD, 0xAB] = .ok (.lxi .DE 0xABCD, []) ∧
  decode [0x9E] = .ok (.sbb .M, []) ∧
  decode [0xFE, 0x40] = .ok (.cpi 0x40, []) ∧
  decode [0x2C] = .ok (.inrR .L, []) ∧
  decode [0x39] = .ok (.dad .SP, []) ∧
  decode [0x17] = .ok (.ral, []) ∧
  decode [0xEA, 0x05, 0x00] = .ok (.jpe 0x0005, []) ∧
  decode [0xF4, 0x00, 0x02] = .ok (.cp 0x0200, []) ∧
  decode [0xD8] = .ok (.rc, []) ∧
  decode [0xEF] = .ok (.rst 5, []) ∧
  decode [0xD5] = .ok (.push .DE, []) ∧
  decode [0xF1] = .ok (.popPsw, []) ∧
  decode [0x76] = .ok (.hlt, []) ∧
  decode [0xDB, 0x03] = .ok (.inp 0x03, []) ∧
  decode [0x38] = .ok (.undoc00 7, []) ∧
  decode [0xED] = .ok (.undocXD 2, [])

/-- Decoding the encoding of a well-formed instruction gives it back, whatever follows, for every operand value
(30_encoding.md R80 to R92). -/
def Obligations.DecodeOfEncodeIsTheInstruction : Prop :=
  ∀ (i : Instr) (rest : List Byte), i.WellFormed = true → decode (encode i ++ rest) = .ok (i, rest)

/-- Bytes that decode are the encoding of a well-formed instruction followed by what is left, so every word has one
meaning and no row falls through to a neighbour (30_encoding.md R92). -/
def Obligations.EncodeOfDecodeIsTheBytes : Prop :=
  ∀ (bytes rest : List Byte) (i : Instr), decode bytes = .ok (i, rest) → i.WellFormed = true ∧ encode i ++ rest = bytes

/-- The opcode byte alone fixes the length, 1, 2 or 3, and every opcode byte begins an instruction (30_encoding.md R80,
R90, R94). -/
def Obligations.OpcodeByteFixesTheLength : Prop :=
  ∀ op : Byte, ∃ n : Nat, (n = 1 ∨ n = 2 ∨ n = 3) ∧ ∀ operands : List Byte,
    ((∃ i rest, decode (op :: operands) = .ok (i, rest)) ↔ n ≤ operands.length + 1) ∧
    ∀ i rest, decode (op :: operands) = .ok (i, rest) → rest = operands.drop (n - 1)

/-- The rows that fault are those of exactly the thirteen bytes (30_encoding.md R93, 48_unimplemented.md R300). -/
def Obligations.FaultingRowsAreTheThirteenBytes : Prop :=
  ∀ (op : Byte) (operands rest : List Byte) (i : Instr), decode (op :: operands) = .ok (i, rest) →
    (isFaultingRow i = true ↔ op ∈ faultingBytes)

/-! ### The step -/

/-- A step at a boundary without a request runs the instruction the bytes at PC decode to (00_scope.md R15,
60_exceptions.md R317), on the state in which the interrupt source's choice at this boundary is used up. The second
conjunct, which gives that state (one choice is used up where INTE is 1, none where it is 0), is the model's choice:
assumption log 3. -/
def Obligations.StepRunsTheDecodedInstruction : Prop :=
  ∀ (s : State) (i : Instr) (rest : List Byte), s.fault = false → s.halted = false → s.request = none →
    decode [s.readByte s.pc, s.readByte (s.pc + 1), s.readByte (s.pc + 2)] = .ok (i, rest) →
    step s = exec i s.afterRequest ∧
      s.afterRequest = { s with
        irqs := if s.inte then s.irqs.tail else s.irqs, choices := if s.inte then s.choices + 1 else s.choices }

/-- The executor has a step exactly while HALTED and FAULT are 0, and then it completes: no implemented instruction
and no faulting byte stops it (00_scope.md R15, R16, 60_exceptions.md R312). How the model answers that there is no
step is the model's choice (assumption log 5): the fault `faulted` while FAULT is 1, HALTED 1 as well or not, and
`halted` while HALTED alone is 1. -/
def Obligations.StepCompletesExactlyWhileRunning : Prop :=
  ∀ s : State,
    (s.fault = false → s.halted = false → ∃ t, step s = .next t) ∧
    (s.fault = true → step s = .fault .faulted) ∧
    (s.fault = false → s.halted = true → step s = .fault .halted)

/-- Interrupt acceptance (60_exceptions.md R316): the PC is pushed, control goes to `8 * n`, INTE is cleared, nothing
else changes, and it comes before the next fetch (R317). The first clause says where the model takes the source's
choice from: the next one listed, else a free value, so both an acceptance of any n and an instruction are possible
next steps (R317). That the choices are so held, and that an acceptance uses one up, is the model's choice: assumption
log 3. -/
def Obligations.InterruptAcceptancePushesAndVectors : Prop :=
  (∀ s : State, s.request = if s.inte then
    (match s.irqs with | [] => Config.interruptChoice s.choices | choice :: _ => choice) else none) ∧
  ∀ (s : State) (n : VectorIndex), s.halted = false → s.fault = false → s.request = some n →
    ∃ t, step s = .next t ∧ Pushes s.pc.toNat s t ∧ t.pc.toNat = 8 * n.val ∧ t.inte = false ∧
      t.irqs = s.irqs.tail ∧ t.choices = s.choices + 1 ∧
      t.flags = s.flags ∧ SameRegsBut [] s t ∧ SameMemoryBut [s.sp - 1, s.sp - 2] s t ∧
      t.halted = s.halted ∧ t.fault = s.fault ∧ t.record = s.record ∧
      t.portOut = s.portOut ∧ t.portIn = s.portIn ∧ t.draws = s.draws

/-- While INTE is 0 the interrupt source reaches nothing (60_exceptions.md R315, 10_state.md R36): a step is the same
whatever choices it holds. That its choices are data of the state, and are left unused while INTE is 0, is the model's
choice: assumption log 3. -/
def Obligations.DisabledCoreIgnoresTheInterruptSource : Prop :=
  ∀ (s : State) (listed : List (Option VectorIndex)) (made : Nat), s.inte = false →
    step { s with irqs := listed, choices := made } =
      match step s with
      | .next t => .next { t with irqs := listed, choices := made }
      | .fault f => .fault f
      | .refused r => .refused r

/-- The exception (60_exceptions.md R310, R313): a step at one of the thirteen bytes sets FAULT and the record and
changes nothing else, PC included; no later step follows (92_eei_decisions.md D6 to D8). That the model answers the
later step with the fault `faulted`, the last clause, is the model's choice: assumption log 5. -/
def Obligations.FaultingByteRaisesTheException : Prop :=
  ∀ s : State, s.fault = false → s.halted = false → s.request = none → s.readByte s.pc ∈ faultingBytes →
    ∃ t, step s = .next t ∧ t.fault = true ∧ t.record = ⟨.unimplementedInstruction, s.readByte s.pc, s.pc⟩ ∧
      t.pc = s.pc ∧ t.sp = s.sp ∧ t.flags = s.flags ∧ SameRegsBut [] s t ∧ SameMemoryBut [] s t ∧
      t.inte = s.inte ∧ t.halted = s.halted ∧ t.portOut = s.portOut ∧ t.portIn = s.portIn ∧ t.draws = s.draws ∧
      step t = .fault .faulted

/-- Each row of 48_unimplemented.md takes the exception with its own opcode byte (R301 to R305), from every state. The
bytes of those rows are 8 * n for n from 1 and 0xCD + 16 * p for p from 1: that `undoc00 0` and `undocXD 0`, terms with
the bytes of NOP and CALL which the decoder never gives, take it too is the model's choice (assumption log 9). -/
def Obligations.FaultingRowsTakeTheException : Prop :=
  (EncodesF1 0x27 .daa ∧ EncodesF1 0xCB .undocCB ∧ EncodesF1 0xD9 .undocD9 ∧
    (∀ n : Fin 8, n ≠ 0 → EncodesF1 (8 * n.val) (.undoc00 n)) ∧
    ∀ p : Fin 4, p ≠ 0 → EncodesF1 (0xCD + 16 * p.val) (.undocXD p)) ∧
  ∀ s : State,
    let raised (op : Nat) : State :=
      { s with fault := true, record := ⟨.unimplementedInstruction, BitVec.ofNat 8 op, s.pc⟩ }
    exec .daa s = .next (raised 0x27) ∧ exec .undocCB s = .next (raised 0xCB) ∧
    exec .undocD9 s = .next (raised 0xD9) ∧ (∀ n : Fin 8, exec (.undoc00 n) s = .next (raised (8 * n.val))) ∧
    ∀ p : Fin 4, exec (.undocXD p) s = .next (raised (0xCD + 16 * p.val))

/-! ### Invariants, reset and load -/

/-- Every step from a state whose memory is in canonical form leaves memory in canonical form. -/
def Obligations.StepKeepsMemoryCanonical : Prop :=
  ∀ s t : State, s.memCanonical = true → step s = .next t → t.memCanonical = true

/-- Every step keeps the fault record true to the machine: while FAULT is 1, PC is the recorded address, the byte there
is the recorded one and has no instruction, and HALTED is 0 (60_exceptions.md R310, R313). -/
def Obligations.StepKeepsTheFaultRecorded : Prop :=
  ∀ s t : State, s.faultRecorded = true → s.oneEnd = true → step s = .next t →
    t.faultRecorded = true ∧ t.oneEnd = true

/-- What reset leaves (70_reset_and_hazards.md R350, 10_state.md R37; the flags, HALTED and FAULT by
92_eei_decisions.md D14). -/
def Obligations.ResetLeavesTheStatedValues : Prop :=
  (∀ r : Reg, State.reset.getReg r = 0x00) ∧ State.reset.sp = 0x0000 ∧ State.reset.pc = 0x0000 ∧
  State.reset.flags = ⟨false, false, false, false, false⟩ ∧ State.reset.inte = false ∧
  State.reset.halted = false ∧ State.reset.fault = false ∧ ∀ x : Word, State.reset.readByte x = 0x00

/-- The invariant holds right after reset. -/
def Obligations.ResetMeetsTheInvariant : Prop := State.reset.Inv = true

/-- The load (70_reset_and_hazards.md R352, R353): an image that fits stands at its base and every other cell is 0x00,
PC and the rest are as reset left them; an image that would pass the end of memory is refused
(92_eei_decisions.md D14). -/
def Obligations.LoadPlacesTheImage : Prop :=
  ∀ (base : Word) (image : List Byte),
    (base.toNat + image.length ≤ 65536 → ∃ t, State.reset.load base image = some t ∧
      (∀ (k : Nat) (h : k < image.length), t.readByte (base + BitVec.ofNat 16 k) = image[k]) ∧
      (∀ x : Word, x.toNat < base.toNat ∨ base.toNat + image.length ≤ x.toNat → t.readByte x = 0x00) ∧
      t = { State.reset with mem := t.mem } ∧ t.memCanonical = true) ∧
    (65536 < base.toNat + image.length → State.reset.load base image = none)

/-! ### What instructions leave alone -/

/-- Only the instructions of the table write a flag: Z, S, P; CY; and AC by POP PSW alone (10_state.md R28, R30;
92_eei_decisions.md D3, D4, D21). -/
def Obligations.FlagsAreWrittenOnlyAsTabled : Prop :=
  ∀ (i : Instr) (s t : State), exec i s = .next t →
    (writesZsp i = false → t.flags.z = s.flags.z ∧ t.flags.s = s.flags.s ∧ t.flags.p = s.flags.p) ∧
    (writesCarry i = false → t.flags.cy = s.flags.cy) ∧
    (i ≠ .popPsw → t.flags.ac = s.flags.ac)

/-- AC is stored and nothing more (10_state.md R30): changing it changes nothing but AC itself in what an instruction
does, PUSH PSW apart, which stores it, and POP PSW, which overwrites it. -/
def Obligations.AuxiliaryCarryIsReadOnlyByPushPsw : Prop :=
  ∀ (i : Instr) (s t : State) (x : Bool), i ≠ .pushPsw → exec i s = .next t →
    exec i { s with flags := { s.flags with ac := x } } =
      .next (if i = .popPsw then t else { t with flags := { t.flags with ac := x } })

/-- Every register but those an instruction's rule names keeps its value (10_state.md R22). -/
def Obligations.RegistersAreWrittenOnlyAsNamed : Prop :=
  ∀ (i : Instr) (s t : State), exec i s = .next t → SameRegsBut (writtenRegs i) s t

/-- SP is written only by LXI SP, INX SP, DCX SP, SPHL, the pushes and the pops (10_state.md R23). -/
def Obligations.StackPointerIsWrittenOnlyByItsList : Prop :=
  ∀ (i : Instr) (s t : State), exec i s = .next t → writesSp s.flags i = false → t.sp = s.sp

/-- INTE is written by EI and DI alone, HALTED by HLT alone, FAULT and its record by the faulting rows alone
(10_state.md R31 to R33). -/
def Obligations.ControlBitsAreWrittenOnlyByTheirInstructions : Prop :=
  ∀ (i : Instr) (s t : State), exec i s = .next t →
    (i ≠ .ei → i ≠ .di → t.inte = s.inte) ∧ (i ≠ .hlt → t.halted = s.halted) ∧
    (isFaultingRow i = false → t.fault = s.fault ∧ t.record = s.record)

/-- Every byte of memory but those the instruction stores to reads as before (20_memory.md R57). -/
def Obligations.MemoryIsStoredToOnlyAsTabled : Prop :=
  ∀ (i : Instr) (s t : State), exec i s = .next t → SameMemoryBut (storedTo i s) s t

/-- Only OUT makes a port event and only IN makes a draw (47_io.md R290, 20_memory.md R51). The last clause, that no
instruction uses up a choice of the interrupt source, is about data of the model's own: assumption log 3. -/
def Obligations.PortsAreReachedOnlyByInAndOut : Prop :=
  ∀ (i : Instr) (s t : State), exec i s = .next t →
    ((∀ port, i ≠ .outp port) → t.portOut = s.portOut) ∧
    ((∀ port, i ≠ .inp port) → t.portIn = s.portIn ∧ t.draws = s.draws) ∧ SameChoices s t

/-- An instruction that is no control transfer and does not fault leaves PC at the next instruction, mod 65536
(10_state.md R25). -/
def Obligations.ProgramCounterAdvancesByTheLength : Prop :=
  ∀ (i : Instr) (s t : State), exec i s = .next t → isTransfer i = false → isFaultingRow i = false →
    t.pc.toNat = (s.pc.toNat + (encode i).length) % 65536

/-- A pair is a view of two registers, the first its high byte, and writing it writes both (10_state.md R21). -/
def Obligations.RegisterPairsAreViews : Prop :=
  ∀ s : State, s.bc.toNat = pairValue s .BC ∧ s.de.toNat = pairValue s .DE ∧ s.hl.toNat = pairValue s .HL ∧
    ∀ (p : Pair) (w : Word), pairValue (s.setPair p w) p = w.toNat ∧ (s.setPair p w).pc = s.pc ∧
      (p ≠ .SP → (s.setPair p w).sp = s.sp) ∧ (s.setPair p w).flags = s.flags ∧
      RestBut (pairRegs p) [] s (s.setPair p w)

/-! ### Data movement (40_data_movement.md) -/

/-- MOV r1,r2 (R111). -/
def Obligations.MovCopiesARegister : Prop :=
  ∀ dst src : Reg, EncodesF1 (0x40 + 8 * regCode dst + regCode src) (.movRR dst src) ∧
    ∀ s, ∃ t, exec (.movRR dst src) s = .next t ∧ t.getReg dst = s.getReg src ∧ Moves 1 [dst] [] s t

/-- MOV r,M (R112), from the cell at the old HL, and MVI r,d8 (R114). -/
def Obligations.RegisterLoadsFromCellAndImmediate : Prop :=
  ∀ dst : Reg,
    (EncodesF1 (0x46 + 8 * regCode dst) (.movRM dst) ∧
      ∀ s, ∃ t, exec (.movRM dst) s = .next t ∧ t.getReg dst = s.readByte s.hl ∧ Moves 1 [dst] [] s t) ∧
    EncodesF2 (0x06 + 8 * regCode dst) (.mviR dst) ∧
      ∀ imm s, ∃ t, exec (.mviR dst imm) s = .next t ∧ t.getReg dst = imm ∧ Moves 2 [dst] [] s t

/-- MOV M,r (R113) and MVI M,d8 (R115) store one byte at HL. -/
def Obligations.CellStoresFromRegisterAndImmediate : Prop :=
  (∀ src : Reg, EncodesF1 (0x70 + regCode src) (.movMR src) ∧
    ∀ s, ∃ t, exec (.movMR src) s = .next t ∧ t.readByte s.hl = s.getReg src ∧ Moves 1 [] [s.hl] s t) ∧
  EncodesF2 0x36 .mviM ∧
    ∀ imm s, ∃ t, exec (.mviM imm) s = .next t ∧ t.readByte s.hl = imm ∧ Moves 2 [] [s.hl] s t

/-- LXI rp,d16 (R116), SP among the pairs. -/
def Obligations.LxiLoadsAPair : Prop :=
  ∀ p : Pair, EncodesF3 (0x01 + 16 * pairCode p) (.lxi p) ∧
    ∀ imm s, ∃ t, exec (.lxi p imm) s = .next t ∧ pairValue t p = imm.toNat ∧ t.pc = s.pc + 3 ∧
      (p ≠ .SP → t.sp = s.sp) ∧ t.flags = s.flags ∧ RestBut (pairRegs p) [] s t

/-- LDAX rp (R117) and LDA a16 (R119) load A from a cell; STAX rp (R118) and STA a16 (R120) store A to one (what they
move: 93_implementation_defined.md GK7). -/
def Obligations.AccumulatorMovesToAndFromMemory : Prop :=
  (∀ p : IndexPair,
    (∀ s : State, s.indexAddress p = match p with | .BC => s.bc | .DE => s.de) ∧
    (EncodesF1 (0x0A + 16 * indexPairCode p) (.ldax p) ∧
      ∀ s, ∃ t, exec (.ldax p) s = .next t ∧ t.a = s.readByte (s.indexAddress p) ∧ Moves 1 [.A] [] s t) ∧
    EncodesF1 (0x02 + 16 * indexPairCode p) (.stax p) ∧
      ∀ s, ∃ t, exec (.stax p) s = .next t ∧ t.readByte (s.indexAddress p) = s.a ∧
        Moves 1 [] [s.indexAddress p] s t) ∧
  (EncodesF3 0x3A .lda ∧
    ∀ addr s, ∃ t, exec (.lda addr) s = .next t ∧ t.a = s.readByte addr ∧ Moves 3 [.A] [] s t) ∧
  EncodesF3 0x32 .sta ∧
    ∀ addr s, ∃ t, exec (.sta addr) s = .next t ∧ t.readByte addr = s.a ∧ Moves 3 [] [addr] s t

/-- LHLD a16 (R121) and SHLD a16 (R122): L with the cell at the address, H with the next one, mod 65536
(derived in R121 from R54 and R21). -/
def Obligations.HlLoadsAndStoresDirect : Prop :=
  (EncodesF3 0x2A .lhld ∧
    ∀ addr s, ∃ t, exec (.lhld addr) s = .next t ∧ t.l = s.readByte addr ∧ t.h = s.readByte (addr + 1) ∧
      Moves 3 [.H, .L] [] s t) ∧
  EncodesF3 0x22 .shld ∧
    ∀ addr s, ∃ t, exec (.shld addr) s = .next t ∧ t.readByte addr = s.l ∧ t.readByte (addr + 1) = s.h ∧
      Moves 3 [] [addr, addr + 1] s t

/-! ### Arithmetic and logic (41_arithmetic_logic.md) -/

/-- ADD (R144) and ADC (R145), on every register and on M; that ADC adds Carry is 93_implementation_defined.md GK7. -/
def Obligations.AdditionsOfAnOperand : Prop :=
  ∀ src : Operand,
    (EncodesF1 (0x80 + operandCode src) (.add src) ∧
      ∀ s, ∃ t, exec (.add src) s = .next t ∧ Adds 1 (operandValue s src) 0 s t) ∧
    EncodesF1 (0x88 + operandCode src) (.adc src) ∧
      ∀ s, ∃ t, exec (.adc src) s = .next t ∧ Adds 1 (operandValue s src) s.flags.cy.toNat s t

/-- ADI d8 (R152) and ACI d8 (R153). -/
def Obligations.AdditionsOfAnImmediate : Prop :=
  (EncodesF2 0xC6 .adi ∧ ∀ imm s, ∃ t, exec (.adi imm) s = .next t ∧ Adds 2 imm 0 s t) ∧
  EncodesF2 0xCE .aci ∧ ∀ imm s, ∃ t, exec (.aci imm) s = .next t ∧ Adds 2 imm s.flags.cy.toNat s t

/-- SUB (R146) and SBB (R147), on every register and on M; CY is 1 exactly on a borrow (R142;
92_eei_decisions.md D1). -/
def Obligations.SubtractionsOfAnOperand : Prop :=
  ∀ src : Operand,
    (EncodesF1 (0x90 + operandCode src) (.sub src) ∧
      ∀ s, ∃ t, exec (.sub src) s = .next t ∧ Subtracts 1 (operandValue s src) 0 s t) ∧
    EncodesF1 (0x98 + operandCode src) (.sbb src) ∧
      ∀ s, ∃ t, exec (.sbb src) s = .next t ∧ Subtracts 1 (operandValue s src) s.flags.cy.toNat s t

/-- SUI d8 (R154) and SBI d8 (R155), with the same borrow convention (92_eei_decisions.md D1). -/
def Obligations.SubtractionsOfAnImmediate : Prop :=
  (EncodesF2 0xD6 .sui ∧ ∀ imm s, ∃ t, exec (.sui imm) s = .next t ∧ Subtracts 2 imm 0 s t) ∧
  EncodesF2 0xDE .sbi ∧ ∀ imm s, ∃ t, exec (.sbi imm) s = .next t ∧ Subtracts 2 imm s.flags.cy.toNat s t

/-- CMP (R151) and CPI d8 (R159) set the flags of a subtraction and keep A (R142; 92_eei_decisions.md D1). -/
def Obligations.ComparisonsKeepTheAccumulator : Prop :=
  (∀ src : Operand, EncodesF1 (0xB8 + operandCode src) (.cmp src) ∧
    ∀ s, ∃ t, exec (.cmp src) s = .next t ∧ Compares 1 (operandValue s src) s t) ∧
  EncodesF2 0xFE .cpi ∧ ∀ imm s, ∃ t, exec (.cpi imm) s = .next t ∧ Compares 2 imm s t

/-- ANA (R148), XRA (R149) and ORA (R150), on every register and on M; CY stays as it was
(R143; 92_eei_decisions.md D3). -/
def Obligations.LogicOnAnOperand : Prop :=
  ∀ src : Operand,
    (EncodesF1 (0xA0 + operandCode src) (.ana src) ∧
      ∀ s, ∃ t, exec (.ana src) s = .next t ∧ Logic 1 (fun x y => x && y) (operandValue s src) s t) ∧
    (EncodesF1 (0xA8 + operandCode src) (.xra src) ∧
      ∀ s, ∃ t, exec (.xra src) s = .next t ∧ Logic 1 (fun x y => x != y) (operandValue s src) s t) ∧
    EncodesF1 (0xB0 + operandCode src) (.ora src) ∧
      ∀ s, ∃ t, exec (.ora src) s = .next t ∧ Logic 1 (fun x y => x || y) (operandValue s src) s t

/-- ANI d8 (R156), XRI d8 (R157) and ORI d8 (R158); CY stays as it was (R143; 92_eei_decisions.md D3). -/
def Obligations.LogicOnAnImmediate : Prop :=
  (EncodesF2 0xE6 .ani ∧ ∀ imm s, ∃ t, exec (.ani imm) s = .next t ∧ Logic 2 (fun x y => x && y) imm s t) ∧
  (EncodesF2 0xEE .xri ∧ ∀ imm s, ∃ t, exec (.xri imm) s = .next t ∧ Logic 2 (fun x y => x != y) imm s t) ∧
  EncodesF2 0xF6 .ori ∧ ∀ imm s, ∃ t, exec (.ori imm) s = .next t ∧ Logic 2 (fun x y => x || y) imm s t

/-- INR r (R160) and DCR r (R162): mod 256, Z S P from the result, CY never. -/
def Obligations.RegistersCountByOne : Prop :=
  ∀ r : Reg,
    (EncodesF1 (0x04 + 8 * regCode r) (.inrR r) ∧
      ∀ s, ∃ t, exec (.inrR r) s = .next t ∧ (t.getReg r).toNat = ((s.getReg r).toNat + 1) % 256 ∧
        ZspOf t.flags (t.getReg r) ∧ t.flags.cy = s.flags.cy ∧ Computes 1 [r] [] s t) ∧
    EncodesF1 (0x05 + 8 * regCode r) (.dcrR r) ∧
      ∀ s, ∃ t, exec (.dcrR r) s = .next t ∧ (t.getReg r).toNat = ((s.getReg r).toNat + 255) % 256 ∧
        ZspOf t.flags (t.getReg r) ∧ t.flags.cy = s.flags.cy ∧ Computes 1 [r] [] s t

/-- INR M (R161) and DCR M (R163). -/
def Obligations.CellsCountByOne : Prop :=
  (EncodesF1 0x34 .inrM ∧
    ∀ s, ∃ t, exec .inrM s = .next t ∧ (t.readByte s.hl).toNat = ((s.readByte s.hl).toNat + 1) % 256 ∧
      ZspOf t.flags (t.readByte s.hl) ∧ t.flags.cy = s.flags.cy ∧ Computes 1 [] [s.hl] s t) ∧
  EncodesF1 0x35 .dcrM ∧
    ∀ s, ∃ t, exec .dcrM s = .next t ∧ (t.readByte s.hl).toNat = ((s.readByte s.hl).toNat + 255) % 256 ∧
      ZspOf t.flags (t.readByte s.hl) ∧ t.flags.cy = s.flags.cy ∧ Computes 1 [] [s.hl] s t

/-! ### 16-bit arithmetic (42_arith16.md) and rotates (43_rotates.md) -/

/-- INX rp (R181) and DCX rp (R182): mod 65536, no flag; SP among the pairs. -/
def Obligations.PairsCountByOne : Prop :=
  ∀ p : Pair,
    (EncodesF1 (0x03 + 16 * pairCode p) (.inx p) ∧
      ∀ s, ∃ t, exec (.inx p) s = .next t ∧ pairValue t p = (pairValue s p + 1) % 65536 ∧ t.pc = s.pc + 1 ∧
        (p ≠ .SP → t.sp = s.sp) ∧ t.flags = s.flags ∧ RestBut (pairRegs p) [] s t) ∧
    EncodesF1 (0x0B + 16 * pairCode p) (.dcx p) ∧
      ∀ s, ∃ t, exec (.dcx p) s = .next t ∧ pairValue t p = (pairValue s p + 65535) % 65536 ∧ t.pc = s.pc + 1 ∧
        (p ≠ .SP → t.sp = s.sp) ∧ t.flags = s.flags ∧ RestBut (pairRegs p) [] s t

/-- DAD rp (R184): HL takes the sum mod 65536, CY is written and no other flag. -/
def Obligations.DadAddsAPairToHl : Prop :=
  ∀ p : Pair, EncodesF1 (0x09 + 16 * pairCode p) (.dad p) ∧
    ∀ s, ∃ t, exec (.dad p) s = .next t ∧ pairValue t .HL = (pairValue s .HL + pairValue s p) % 65536 ∧
      (t.flags.cy = true ↔ 65535 < pairValue s .HL + pairValue s p) ∧
      t.flags.z = s.flags.z ∧ t.flags.s = s.flags.s ∧ t.flags.p = s.flags.p ∧ Computes 1 [.H, .L] [] s t

/-- RLC, RRC, RAL and RAR (R191 to R194). -/
def Obligations.RotatesMoveOneBit : Prop :=
  (EncodesF1 0x07 .rlc ∧ ∀ s, ∃ t, exec .rlc s = .next t ∧
    Rotates ((2 * s.a.toNat) % 256 + s.a.toNat / 128) (128 ≤ s.a.toNat) s t) ∧
  (EncodesF1 0x0F .rrc ∧ ∀ s, ∃ t, exec .rrc s = .next t ∧
    Rotates (s.a.toNat / 2 + 128 * (s.a.toNat % 2)) (s.a.toNat % 2 = 1) s t) ∧
  (EncodesF1 0x17 .ral ∧ ∀ s, ∃ t, exec .ral s = .next t ∧
    Rotates ((2 * s.a.toNat) % 256 + s.flags.cy.toNat) (128 ≤ s.a.toNat) s t) ∧
  EncodesF1 0x1F .rar ∧ ∀ s, ∃ t, exec .rar s = .next t ∧
    Rotates (s.a.toNat / 2 + 128 * s.flags.cy.toNat) (s.a.toNat % 2 = 1) s t

/-- The round trips of the rotates (R195, and the corner cases of R193 and R194). -/
def Obligations.RotatesRoundTrip : Prop :=
  ∀ s : State,
    (∃ t, execAll (List.replicate 8 .rlc) s = some t ∧ t.a = s.a ∧ t.flags.cy = s.a.getLsbD 0) ∧
    (∃ t, execAll (List.replicate 8 .rrc) s = some t ∧ t.a = s.a ∧ t.flags.cy = s.a.getLsbD 7) ∧
    (∃ t, execAll [.rlc, .rrc] s = some t ∧ t.a = s.a ∧ t.flags.cy = s.a.getLsbD 7) ∧
    (∃ t, execAll (List.replicate 4 .rlc) s = some t ∧ t.a.toNat = 16 * (s.a.toNat % 16) + s.a.toNat / 16 ∧
      (t.a = s.a ↔ s.a.toNat / 16 = s.a.toNat % 16)) ∧
    (∃ t, execAll (List.replicate 9 .ral) s = some t ∧ t.a = s.a ∧ t.flags = s.flags) ∧
    (∃ t, execAll [.ral, .rar] s = some t ∧ t.a = s.a ∧ t.flags = s.flags) ∧
    ∃ t, execAll [.rar, .ral] s = some t ∧ t.a = s.a ∧ t.flags = s.flags

/-! ### Control transfer (44_control_transfer.md) -/

/-- JMP a16 (R204) and PCHL (R232). -/
def Obligations.JumpsGoToTheirTarget : Prop :=
  (EncodesF3 0xC3 .jmp ∧ ∀ addr s, ∃ t, exec (.jmp addr) s = .next t ∧ t.pc = addr ∧ t.sp = s.sp ∧
    t.flags = s.flags ∧ RestBut [] [] s t) ∧
  EncodesF1 0xE9 .pchl ∧ ∀ s, ∃ t, exec .pchl s = .next t ∧ t.pc.toNat = pairValue s .HL ∧ t.sp = s.sp ∧
    t.flags = s.flags ∧ RestBut [] [] s t

/-- The eight conditional jumps (R205 to R212), taken and not. -/
def Obligations.ConditionalJumpsTestOneFlag : Prop :=
  JumpsWhen 0xC2 .jnz Flags.z false ∧ JumpsWhen 0xCA .jz Flags.z true ∧
  JumpsWhen 0xD2 .jnc Flags.cy false ∧ JumpsWhen 0xDA .jc Flags.cy true ∧
  JumpsWhen 0xE2 .jpo Flags.p false ∧ JumpsWhen 0xEA .jpe Flags.p true ∧
  JumpsWhen 0xF2 .jp Flags.s false ∧ JumpsWhen 0xFA .jm Flags.s true

/-- CALL a16 (R213) and RST n (R231), which goes to `8 * n`. -/
def Obligations.CallsPushTheReturnAddress : Prop :=
  (EncodesF3 0xCD .call ∧ ∀ addr s, ∃ t, exec (.call addr) s = .next t ∧ Calls 3 addr s t) ∧
  ∀ n : Fin 8, EncodesF1 (0xC7 + 8 * n.val) (.rst n) ∧
    ∀ s, ∃ t, exec (.rst n) s = .next t ∧ Calls 1 (BitVec.ofNat 16 (8 * n.val)) s t

/-- The eight conditional calls (R214 to R221), taken and not. -/
def Obligations.ConditionalCallsTestOneFlag : Prop :=
  CallsWhen 0xC4 .cnz Flags.z false ∧ CallsWhen 0xCC .cz Flags.z true ∧
  CallsWhen 0xD4 .cnc Flags.cy false ∧ CallsWhen 0xDC .cc Flags.cy true ∧
  CallsWhen 0xE4 .cpo Flags.p false ∧ CallsWhen 0xEC .cpe Flags.p true ∧
  CallsWhen 0xF4 .cp Flags.s false ∧ CallsWhen 0xFC .cm Flags.s true

/-- RET (R222) and the eight conditional returns (R223 to R230), taken and not. -/
def Obligations.ReturnsPopTheProgramCounter : Prop :=
  (EncodesF1 0xC9 .ret ∧ ∀ s, ∃ t, exec .ret s = .next t ∧ Returns s t) ∧
  ReturnsWhen 0xC0 .rnz Flags.z false ∧ ReturnsWhen 0xC8 .rz Flags.z true ∧
  ReturnsWhen 0xD0 .rnc Flags.cy false ∧ ReturnsWhen 0xD8 .rc Flags.cy true ∧
  ReturnsWhen 0xE0 .rpo Flags.p false ∧ ReturnsWhen 0xE8 .rpe Flags.p true ∧
  ReturnsWhen 0xF0 .rp Flags.s false ∧ ReturnsWhen 0xF8 .rm Flags.s true

/-- A return from a call, a restart or an accepted interrupt comes back to the address pushed, with the old SP, where
SP and the two stack cells are as the call left them (R234); INTE is not restored (60_exceptions.md R318). -/
def Obligations.ReturnUndoesACall : Prop :=
  (∀ (addr : Word) (s : State), ∃ t, exec (.call addr) s = .next t ∧ ReturnsTo (s.pc + 3) s t) ∧
  (∀ (n : Fin 8) (s : State), ∃ t, exec (.rst n) s = .next t ∧ ReturnsTo (s.pc + 1) s t) ∧
  ∀ (n : VectorIndex) (s : State), ReturnsTo s.pc s (s.acceptInterrupt n)

/-! ### The stack (45_stack.md) -/

/-- PUSH rp (R251) and POP rp (R252). -/
def Obligations.PairsArePushedAndPopped : Prop :=
  ∀ p : StackPair,
    (EncodesF1 (0xC5 + 16 * stackPairCode p) (.push p) ∧
      ∀ s, ∃ t, exec (.push p) s = .next t ∧ Pushes (pairValue s (stackPair p)) s t ∧ t.pc = s.pc + 1 ∧
        t.flags = s.flags ∧ RestBut [] [s.sp - 1, s.sp - 2] s t) ∧
    EncodesF1 (0xC1 + 16 * stackPairCode p) (.pop p) ∧
      ∀ s, ∃ t, exec (.pop p) s = .next t ∧ pairValue t (stackPair p) = topOfStack s ∧ t.sp = s.sp + 2 ∧
        t.pc = s.pc + 1 ∧ t.flags = s.flags ∧ RestBut (pairRegs (stackPair p)) [] s t

/-- The flag byte (R253 to R255): its layout, and that unpacking undoes packing and drops bits 7 to 5
(92_eei_decisions.md D5). -/
def Obligations.FlagByteIsPackedAndUnpacked : Prop :=
  (∀ f : Flags, f.pack.toNat = flagByte f ∧ Flags.unpack f.pack = f) ∧
  ∀ v : Byte, (Flags.unpack v).z = v.getLsbD 0 ∧ (Flags.unpack v).s = v.getLsbD 1 ∧
    (Flags.unpack v).p = v.getLsbD 2 ∧ (Flags.unpack v).cy = v.getLsbD 3 ∧ (Flags.unpack v).ac = v.getLsbD 4 ∧
    (Flags.unpack v).pack.toNat = v.toNat % 32

/-- PUSH PSW (R256) and POP PSW (R257): A is the high byte, the flag byte the low one. -/
def Obligations.PswIsPushedAndPopped : Prop :=
  (EncodesF1 0xF5 .pushPsw ∧
    ∀ s, ∃ t, exec .pushPsw s = .next t ∧ Pushes (s.a.toNat * 256 + flagByte s.flags) s t ∧ t.pc = s.pc + 1 ∧
      t.flags = s.flags ∧ RestBut [] [s.sp - 1, s.sp - 2] s t) ∧
  EncodesF1 0xF1 .popPsw ∧
    ∀ s, ∃ t, exec .popPsw s = .next t ∧ t.a = s.readByte (s.sp + 1) ∧
      flagByte t.flags = (s.readByte s.sp).toNat % 32 ∧ t.sp = s.sp + 2 ∧ t.pc = s.pc + 1 ∧ RestBut [.A] [] s t

/-- XTHL (R258), L with the cell at SP and H with the next (derived in R258 from R200 and R21), and SPHL (R259). -/
def Obligations.HlExchangesWithAndCopiesToTheStack : Prop :=
  (EncodesF1 0xE3 .xthl ∧
    ∀ s, ∃ t, exec .xthl s = .next t ∧ t.l = s.readByte s.sp ∧ t.h = s.readByte (s.sp + 1) ∧
      t.readByte s.sp = s.l ∧ t.readByte (s.sp + 1) = s.h ∧ Moves 1 [.H, .L] [s.sp, s.sp + 1] s t) ∧
  EncodesF1 0xF9 .sphl ∧
    ∀ s, ∃ t, exec .sphl s = .next t ∧ t.sp.toNat = pairValue s .HL ∧ t.pc = s.pc + 1 ∧ t.flags = s.flags ∧
      RestBut [] [] s t

/-- A push followed by the pop of the same pair, or of PSW, restores registers, flags and SP; the two cells below the
old SP keep the bytes pushed (R260). -/
def Obligations.PopUndoesAPush : Prop :=
  (∀ (p : StackPair) (s : State), ∃ t, execAll [.push p, .pop p] s = some t ∧
    (t.readByte (s.sp - 1)).toNat * 256 + (t.readByte (s.sp - 2)).toNat = pairValue s (stackPair p) ∧
    Moves 2 [] [s.sp - 1, s.sp - 2] s t) ∧
  ∀ s : State, ∃ t, execAll [.pushPsw, .popPsw] s = some t ∧
    (t.readByte (s.sp - 1)).toNat * 256 + (t.readByte (s.sp - 2)).toNat = s.a.toNat * 256 + flagByte s.flags ∧
    Moves 2 [] [s.sp - 1, s.sp - 2] s t

/-! ### Miscellaneous (46_misc.md) and ports (47_io.md) -/

/-- XCHG (R272), NOP (R271), CMC (R274) and STC (R278). -/
def Obligations.XchgNopAndTheCarryInstructions : Prop :=
  (EncodesF1 0xEB .xchg ∧
    ∀ s, ∃ t, exec .xchg s = .next t ∧ t.d = s.h ∧ t.e = s.l ∧ t.h = s.d ∧ t.l = s.e ∧
      Moves 1 [.D, .E, .H, .L] [] s t) ∧
  (EncodesF1 0x00 .nop ∧ ∀ s, ∃ t, exec .nop s = .next t ∧ Moves 1 [] [] s t) ∧
  (EncodesF1 0x3F .cmc ∧
    ∀ s, ∃ t, exec .cmc s = .next t ∧ t.flags.cy = !s.flags.cy ∧ t.flags.z = s.flags.z ∧ t.flags.s = s.flags.s ∧
      t.flags.p = s.flags.p ∧ Computes 1 [] [] s t) ∧
  EncodesF1 0x37 .stc ∧
    ∀ s, ∃ t, exec .stc s = .next t ∧ t.flags.cy = true ∧ t.flags.z = s.flags.z ∧ t.flags.s = s.flags.s ∧
      t.flags.p = s.flags.p ∧ Computes 1 [] [] s t

/-- CMA (R273): A takes its complement, and no flag is written (92_eei_decisions.md D21); two CMAs restore A. -/
def Obligations.CmaComplementsTheAccumulator : Prop :=
  (EncodesF1 0x2F .cma ∧
    ∀ s, ∃ t, exec .cma s = .next t ∧ t.a.toNat = 255 - s.a.toNat ∧ Moves 1 [.A] [] s t) ∧
  ∀ s, ∃ t, execAll [.cma, .cma] s = some t ∧ t.a = s.a

/-- DI (R275) and EI (R276) write INTE at once: no request is accepted at the boundary after DI, and one the interrupt
source makes at the boundary after EI is accepted there, before the instruction that follows (`EI_DELAY` is 0,
92_eei_decisions.md D10; the source's choices are the data of assumption log 3). -/
def Obligations.InterruptEnableIsWrittenAtOnce : Prop :=
  (EncodesF1 0xF3 .di ∧
    ∀ s, ∃ t, exec .di s = .next t ∧ t = { s with pc := s.pc + 1, inte := false } ∧ t.request = none) ∧
  EncodesF1 0xFB .ei ∧
    ∀ s, ∃ t, exec .ei s = .next t ∧ t = { s with pc := s.pc + 1, inte := true } ∧
      ∀ n : VectorIndex, s.halted = false → s.fault = false → t.request = some n →
        ∃ u, step t = .next u ∧ Pushes (s.pc + 1).toNat t u ∧ u.pc.toNat = 8 * n.val ∧ u.inte = false

/-- HLT (R277): HALTED is set, PC is the address after it, everything else is kept; no step and no interrupt
follows (92_eei_decisions.md D9). That the model answers a further step with the fault `halted` is the model's choice:
assumption log 5. -/
def Obligations.HltEndsTheRun : Prop :=
  EncodesF1 0x76 .hlt ∧
    ∀ s, ∃ t, exec .hlt s = .next t ∧ t = { s with pc := s.pc + 1, halted := true } ∧
      (s.fault = false → ∀ listed made, step { t with irqs := listed, choices := made } = .fault .halted)

/-- IN (R292) and OUT (R293). The byte a port answers is free (assumption log 2): the next of the listed answers, or
where none is listed the free value of this draw. -/
def Obligations.PortsTransferTheAccumulator : Prop :=
  (EncodesF2 0xDB .inp ∧
    ∀ port s, ∃ t, exec (.inp port) s = .next t ∧
      t.a = (match s.portIn with | [] => Config.portRead port s.draws | v :: _ => v) ∧
      t.portIn = s.portIn.tail ∧ t.draws = s.draws + 1 ∧ t.portOut = s.portOut ∧ SameChoices s t ∧
      t.pc = s.pc + 2 ∧ t.sp = s.sp ∧ t.flags = s.flags ∧
      SameRegsBut [.A] s t ∧ SameMemoryBut [] s t ∧ SameControl s t) ∧
  EncodesF2 0xD3 .outp ∧
    ∀ port s, ∃ t, exec (.outp port) s = .next t ∧ t.portOut = s.portOut ++ [(port, s.a)] ∧
      t.portIn = s.portIn ∧ t.draws = s.draws ∧ SameChoices s t ∧ t.pc = s.pc + 2 ∧ t.sp = s.sp ∧
      t.flags = s.flags ∧ SameRegsBut [] s t ∧ SameMemoryBut [] s t ∧ SameControl s t
end

