-- ==== Sys2Proof/Laws/Decode.lean ====
section
/-! SUPPORT. The decoder: every byte has a row, and what the bytes after the opcode byte do. -/

namespace Sys2Proof

theorem decodeOpcode_isSome_fin : ∀ n : Fin 256, (decodeOpcode (BitVec.ofFin n)).isSome = true := by decide +kernel

/-- The rows of 30_encoding.md R92 take every byte. -/
theorem decodeOpcode_isSome (op : Byte) : (decodeOpcode op).isSome = true := decodeOpcode_isSome_fin op.toFin

theorem exists_shape (op : Byte) : ∃ s, decodeOpcode op = some s := Option.isSome_iff_exists.mp (decodeOpcode_isSome op)

theorem opcodeLength_of_shape {op : Byte} {s : Shape} (h : decodeOpcode op = some s) : opcodeLength op = s.length := by
  simp [opcodeLength, h]

/-- An opcode byte begins an instruction of 1, 2 or 3 bytes (30_encoding.md R80). -/
theorem opcodeLength_cases (op : Byte) : opcodeLength op = 1 ∨ opcodeLength op = 2 ∨ opcodeLength op = 3 := by
  obtain ⟨s, hs⟩ := exists_shape op
  rw [opcodeLength_of_shape hs]
  cases s <;> simp [Shape.length]

theorem decode_f1 {op : Byte} {i : Instr} (h : decodeOpcode op = some (.f1 i)) (rest : List Byte) :
    decode (op :: rest) = .ok (i, rest) := by
  simp [decode, h]

theorem decode_f2 {op : Byte} {i : Byte → Instr} (h : decodeOpcode op = some (.f2 i)) (imm : Byte) (rest : List Byte) :
    decode (op :: imm :: rest) = .ok (i imm, rest) := by
  simp [decode, h]

theorem decode_f3 {op : Byte} {i : Word → Instr} (h : decodeOpcode op = some (.f3 i)) (lo hi : Byte)
    (rest : List Byte) : decode (op :: lo :: hi :: rest) = .ok (i (joinBytes hi lo), rest) := by
  simp [decode, h]

/-- What decoded bytes are: an opcode byte of a row and as many operand bytes as its format has. -/
theorem decode_cases {bytes rest : List Byte} {i : Instr} (h : decode bytes = .ok (i, rest)) :
    ∃ op, (decodeOpcode op = some (.f1 i) ∧ bytes = op :: rest) ∨
      (∃ k imm, decodeOpcode op = some (.f2 k) ∧ i = k imm ∧ bytes = op :: imm :: rest) ∨
      (∃ k lo hi, decodeOpcode op = some (.f3 k) ∧ i = k (joinBytes hi lo) ∧ bytes = op :: lo :: hi :: rest) := by
  cases bytes with
  | nil => simp [decode] at h
  | cons op bytes =>
    refine ⟨op, ?_⟩
    obtain ⟨s, hs⟩ := exists_shape op
    cases s with
    | f1 k =>
      simp only [decode, hs, Except.ok.injEq, Prod.mk.injEq] at h
      exact .inl ⟨h.1 ▸ hs, h.2 ▸ rfl⟩
    | f2 k =>
      cases bytes with
      | nil => simp [decode, hs] at h
      | cons imm bytes =>
        simp only [decode, hs, Except.ok.injEq, Prod.mk.injEq] at h
        exact .inr (.inl ⟨k, imm, hs, h.1.symm, h.2 ▸ rfl⟩)
    | f3 k =>
      match bytes with
      | [] => simp [decode, hs] at h
      | [_] => simp [decode, hs] at h
      | lo :: hi :: bytes =>
        simp only [decode, hs, Except.ok.injEq, Prod.mk.injEq] at h
        exact .inr (.inr ⟨k, lo, hi, hs, h.1.symm, h.2 ▸ rfl⟩)

/-- Bytes after the instruction do not matter. -/
theorem decode_append {bytes rest : List Byte} {i : Instr} (h : decode bytes = .ok (i, rest)) (more : List Byte) :
    decode (bytes ++ more) = .ok (i, rest ++ more) := by
  obtain ⟨op, ⟨hs, rfl⟩ | ⟨k, imm, hs, rfl, rfl⟩ | ⟨k, lo, hi, hs, rfl, rfl⟩⟩ := decode_cases h
  · exact decode_f1 hs _
  · exact decode_f2 hs _ _
  · exact decode_f3 hs _ _ _

/-! ### Bytes and words -/

/-- `{hi, lo} = hi * 256 + lo` (00_scope.md R6). -/
theorem joinBytes_toNat (hi lo : Byte) : (joinBytes hi lo).toNat = hi.toNat * 256 + lo.toNat := by
  rw [joinBytes, BitVec.toNat_append, ← Nat.shiftLeft_add_eq_or_of_lt lo.isLt, Nat.shiftLeft_eq]

theorem hiByte_toNat (w : Word) : (hiByte w).toNat = w.toNat / 256 := by
  have := w.isLt
  rw [hiByte, BitVec.extractLsb'_toNat, Nat.shiftRight_eq_div_pow]
  omega

theorem loByte_toNat (w : Word) : (loByte w).toNat = w.toNat % 256 := by
  rw [loByte, BitVec.extractLsb'_toNat, Nat.shiftRight_zero]

@[simp] theorem hiByte_joinBytes (hi lo : Byte) : hiByte (joinBytes hi lo) = hi := by
  have := lo.isLt
  apply BitVec.eq_of_toNat_eq
  rw [hiByte_toNat, joinBytes_toNat]
  omega

@[simp] theorem loByte_joinBytes (hi lo : Byte) : loByte (joinBytes hi lo) = lo := by
  have := lo.isLt
  apply BitVec.eq_of_toNat_eq
  rw [loByte_toNat, joinBytes_toNat]
  omega

@[simp] theorem joinBytes_hiByte_loByte (w : Word) : joinBytes (hiByte w) (loByte w) = w := by
  apply BitVec.eq_of_toNat_eq
  rw [joinBytes_toNat, hiByte_toNat, loByte_toNat]
  omega

/-! ### Field codes -/

@[simp] theorem Reg.ofCode_code (r : Reg) : Reg.ofCode r.code = some r := by cases r <;> rfl
@[simp] theorem Operand.ofCode_code (o : Operand) : Operand.ofCode o.code = o := by
  cases o with
  | reg r => cases r <;> rfl
  | M => rfl
@[simp] theorem Pair.ofCode_code (p : Pair) : Pair.ofCode p.code = p := by cases p <;> rfl
@[simp] theorem StackPair.ofCode_code (p : StackPair) : StackPair.ofCode p.code = some p := by cases p <;> rfl
@[simp] theorem IndexPair.ofCode_code (p : IndexPair) : IndexPair.ofCode p.code = some p := by cases p <;> rfl

end Sys2Proof
end

