-- ==== Sys2Proof/Laws/State.lean ====
section
/-! SUPPORT. The fields of the state after each named update, one lemma per field, so that no proof unfolds a record
update. -/

namespace Sys2Proof.Machine

/-! ### State.writeByte -/

@[simp] theorem State.writeByte_a (s : State) (x : Word) (v : Byte) : (s.writeByte x v).a = s.a := rfl
@[simp] theorem State.writeByte_b (s : State) (x : Word) (v : Byte) : (s.writeByte x v).b = s.b := rfl
@[simp] theorem State.writeByte_c (s : State) (x : Word) (v : Byte) : (s.writeByte x v).c = s.c := rfl
@[simp] theorem State.writeByte_d (s : State) (x : Word) (v : Byte) : (s.writeByte x v).d = s.d := rfl
@[simp] theorem State.writeByte_e (s : State) (x : Word) (v : Byte) : (s.writeByte x v).e = s.e := rfl
@[simp] theorem State.writeByte_h (s : State) (x : Word) (v : Byte) : (s.writeByte x v).h = s.h := rfl
@[simp] theorem State.writeByte_l (s : State) (x : Word) (v : Byte) : (s.writeByte x v).l = s.l := rfl
@[simp] theorem State.writeByte_sp (s : State) (x : Word) (v : Byte) : (s.writeByte x v).sp = s.sp := rfl
@[simp] theorem State.writeByte_pc (s : State) (x : Word) (v : Byte) : (s.writeByte x v).pc = s.pc := rfl
@[simp] theorem State.writeByte_flags (s : State) (x : Word) (v : Byte) : (s.writeByte x v).flags = s.flags := rfl
@[simp] theorem State.writeByte_inte (s : State) (x : Word) (v : Byte) : (s.writeByte x v).inte = s.inte := rfl
@[simp] theorem State.writeByte_halted (s : State) (x : Word) (v : Byte) : (s.writeByte x v).halted = s.halted := rfl
@[simp] theorem State.writeByte_fault (s : State) (x : Word) (v : Byte) : (s.writeByte x v).fault = s.fault := rfl
@[simp] theorem State.writeByte_record (s : State) (x : Word) (v : Byte) : (s.writeByte x v).record = s.record := rfl
@[simp] theorem State.writeByte_mem (s : State) (x : Word) (v : Byte) : (s.writeByte x v).mem = Memory.write s.mem x.toNat v := rfl
@[simp] theorem State.writeByte_portOut (s : State) (x : Word) (v : Byte) : (s.writeByte x v).portOut = s.portOut := rfl
@[simp] theorem State.writeByte_portIn (s : State) (x : Word) (v : Byte) : (s.writeByte x v).portIn = s.portIn := rfl
@[simp] theorem State.writeByte_draws (s : State) (x : Word) (v : Byte) : (s.writeByte x v).draws = s.draws := rfl
@[simp] theorem State.writeByte_irqs (s : State) (x : Word) (v : Byte) : (s.writeByte x v).irqs = s.irqs := rfl
@[simp] theorem State.writeByte_choices (s : State) (x : Word) (v : Byte) : (s.writeByte x v).choices = s.choices := rfl

/-! ### State.setBC -/

@[simp] theorem State.setBC_a (s : State) (w : Word) : (s.setBC w).a = s.a := rfl
@[simp] theorem State.setBC_b (s : State) (w : Word) : (s.setBC w).b = hiByte w := rfl
@[simp] theorem State.setBC_c (s : State) (w : Word) : (s.setBC w).c = loByte w := rfl
@[simp] theorem State.setBC_d (s : State) (w : Word) : (s.setBC w).d = s.d := rfl
@[simp] theorem State.setBC_e (s : State) (w : Word) : (s.setBC w).e = s.e := rfl
@[simp] theorem State.setBC_h (s : State) (w : Word) : (s.setBC w).h = s.h := rfl
@[simp] theorem State.setBC_l (s : State) (w : Word) : (s.setBC w).l = s.l := rfl
@[simp] theorem State.setBC_sp (s : State) (w : Word) : (s.setBC w).sp = s.sp := rfl
@[simp] theorem State.setBC_pc (s : State) (w : Word) : (s.setBC w).pc = s.pc := rfl
@[simp] theorem State.setBC_flags (s : State) (w : Word) : (s.setBC w).flags = s.flags := rfl
@[simp] theorem State.setBC_inte (s : State) (w : Word) : (s.setBC w).inte = s.inte := rfl
@[simp] theorem State.setBC_halted (s : State) (w : Word) : (s.setBC w).halted = s.halted := rfl
@[simp] theorem State.setBC_fault (s : State) (w : Word) : (s.setBC w).fault = s.fault := rfl
@[simp] theorem State.setBC_record (s : State) (w : Word) : (s.setBC w).record = s.record := rfl
@[simp] theorem State.setBC_mem (s : State) (w : Word) : (s.setBC w).mem = s.mem := rfl
@[simp] theorem State.setBC_portOut (s : State) (w : Word) : (s.setBC w).portOut = s.portOut := rfl
@[simp] theorem State.setBC_portIn (s : State) (w : Word) : (s.setBC w).portIn = s.portIn := rfl
@[simp] theorem State.setBC_draws (s : State) (w : Word) : (s.setBC w).draws = s.draws := rfl
@[simp] theorem State.setBC_irqs (s : State) (w : Word) : (s.setBC w).irqs = s.irqs := rfl
@[simp] theorem State.setBC_choices (s : State) (w : Word) : (s.setBC w).choices = s.choices := rfl

/-! ### State.setDE -/

@[simp] theorem State.setDE_a (s : State) (w : Word) : (s.setDE w).a = s.a := rfl
@[simp] theorem State.setDE_b (s : State) (w : Word) : (s.setDE w).b = s.b := rfl
@[simp] theorem State.setDE_c (s : State) (w : Word) : (s.setDE w).c = s.c := rfl
@[simp] theorem State.setDE_d (s : State) (w : Word) : (s.setDE w).d = hiByte w := rfl
@[simp] theorem State.setDE_e (s : State) (w : Word) : (s.setDE w).e = loByte w := rfl
@[simp] theorem State.setDE_h (s : State) (w : Word) : (s.setDE w).h = s.h := rfl
@[simp] theorem State.setDE_l (s : State) (w : Word) : (s.setDE w).l = s.l := rfl
@[simp] theorem State.setDE_sp (s : State) (w : Word) : (s.setDE w).sp = s.sp := rfl
@[simp] theorem State.setDE_pc (s : State) (w : Word) : (s.setDE w).pc = s.pc := rfl
@[simp] theorem State.setDE_flags (s : State) (w : Word) : (s.setDE w).flags = s.flags := rfl
@[simp] theorem State.setDE_inte (s : State) (w : Word) : (s.setDE w).inte = s.inte := rfl
@[simp] theorem State.setDE_halted (s : State) (w : Word) : (s.setDE w).halted = s.halted := rfl
@[simp] theorem State.setDE_fault (s : State) (w : Word) : (s.setDE w).fault = s.fault := rfl
@[simp] theorem State.setDE_record (s : State) (w : Word) : (s.setDE w).record = s.record := rfl
@[simp] theorem State.setDE_mem (s : State) (w : Word) : (s.setDE w).mem = s.mem := rfl
@[simp] theorem State.setDE_portOut (s : State) (w : Word) : (s.setDE w).portOut = s.portOut := rfl
@[simp] theorem State.setDE_portIn (s : State) (w : Word) : (s.setDE w).portIn = s.portIn := rfl
@[simp] theorem State.setDE_draws (s : State) (w : Word) : (s.setDE w).draws = s.draws := rfl
@[simp] theorem State.setDE_irqs (s : State) (w : Word) : (s.setDE w).irqs = s.irqs := rfl
@[simp] theorem State.setDE_choices (s : State) (w : Word) : (s.setDE w).choices = s.choices := rfl

/-! ### State.setHL -/

@[simp] theorem State.setHL_a (s : State) (w : Word) : (s.setHL w).a = s.a := rfl
@[simp] theorem State.setHL_b (s : State) (w : Word) : (s.setHL w).b = s.b := rfl
@[simp] theorem State.setHL_c (s : State) (w : Word) : (s.setHL w).c = s.c := rfl
@[simp] theorem State.setHL_d (s : State) (w : Word) : (s.setHL w).d = s.d := rfl
@[simp] theorem State.setHL_e (s : State) (w : Word) : (s.setHL w).e = s.e := rfl
@[simp] theorem State.setHL_h (s : State) (w : Word) : (s.setHL w).h = hiByte w := rfl
@[simp] theorem State.setHL_l (s : State) (w : Word) : (s.setHL w).l = loByte w := rfl
@[simp] theorem State.setHL_sp (s : State) (w : Word) : (s.setHL w).sp = s.sp := rfl
@[simp] theorem State.setHL_pc (s : State) (w : Word) : (s.setHL w).pc = s.pc := rfl
@[simp] theorem State.setHL_flags (s : State) (w : Word) : (s.setHL w).flags = s.flags := rfl
@[simp] theorem State.setHL_inte (s : State) (w : Word) : (s.setHL w).inte = s.inte := rfl
@[simp] theorem State.setHL_halted (s : State) (w : Word) : (s.setHL w).halted = s.halted := rfl
@[simp] theorem State.setHL_fault (s : State) (w : Word) : (s.setHL w).fault = s.fault := rfl
@[simp] theorem State.setHL_record (s : State) (w : Word) : (s.setHL w).record = s.record := rfl
@[simp] theorem State.setHL_mem (s : State) (w : Word) : (s.setHL w).mem = s.mem := rfl
@[simp] theorem State.setHL_portOut (s : State) (w : Word) : (s.setHL w).portOut = s.portOut := rfl
@[simp] theorem State.setHL_portIn (s : State) (w : Word) : (s.setHL w).portIn = s.portIn := rfl
@[simp] theorem State.setHL_draws (s : State) (w : Word) : (s.setHL w).draws = s.draws := rfl
@[simp] theorem State.setHL_irqs (s : State) (w : Word) : (s.setHL w).irqs = s.irqs := rfl
@[simp] theorem State.setHL_choices (s : State) (w : Word) : (s.setHL w).choices = s.choices := rfl

/-! ### State.setSP -/

@[simp] theorem State.setSP_a (s : State) (w : Word) : (s.setSP w).a = s.a := rfl
@[simp] theorem State.setSP_b (s : State) (w : Word) : (s.setSP w).b = s.b := rfl
@[simp] theorem State.setSP_c (s : State) (w : Word) : (s.setSP w).c = s.c := rfl
@[simp] theorem State.setSP_d (s : State) (w : Word) : (s.setSP w).d = s.d := rfl
@[simp] theorem State.setSP_e (s : State) (w : Word) : (s.setSP w).e = s.e := rfl
@[simp] theorem State.setSP_h (s : State) (w : Word) : (s.setSP w).h = s.h := rfl
@[simp] theorem State.setSP_l (s : State) (w : Word) : (s.setSP w).l = s.l := rfl
@[simp] theorem State.setSP_sp (s : State) (w : Word) : (s.setSP w).sp = w := rfl
@[simp] theorem State.setSP_pc (s : State) (w : Word) : (s.setSP w).pc = s.pc := rfl
@[simp] theorem State.setSP_flags (s : State) (w : Word) : (s.setSP w).flags = s.flags := rfl
@[simp] theorem State.setSP_inte (s : State) (w : Word) : (s.setSP w).inte = s.inte := rfl
@[simp] theorem State.setSP_halted (s : State) (w : Word) : (s.setSP w).halted = s.halted := rfl
@[simp] theorem State.setSP_fault (s : State) (w : Word) : (s.setSP w).fault = s.fault := rfl
@[simp] theorem State.setSP_record (s : State) (w : Word) : (s.setSP w).record = s.record := rfl
@[simp] theorem State.setSP_mem (s : State) (w : Word) : (s.setSP w).mem = s.mem := rfl
@[simp] theorem State.setSP_portOut (s : State) (w : Word) : (s.setSP w).portOut = s.portOut := rfl
@[simp] theorem State.setSP_portIn (s : State) (w : Word) : (s.setSP w).portIn = s.portIn := rfl
@[simp] theorem State.setSP_draws (s : State) (w : Word) : (s.setSP w).draws = s.draws := rfl
@[simp] theorem State.setSP_irqs (s : State) (w : Word) : (s.setSP w).irqs = s.irqs := rfl
@[simp] theorem State.setSP_choices (s : State) (w : Word) : (s.setSP w).choices = s.choices := rfl

/-! ### State.setPC -/

@[simp] theorem State.setPC_a (s : State) (w : Word) : (s.setPC w).a = s.a := rfl
@[simp] theorem State.setPC_b (s : State) (w : Word) : (s.setPC w).b = s.b := rfl
@[simp] theorem State.setPC_c (s : State) (w : Word) : (s.setPC w).c = s.c := rfl
@[simp] theorem State.setPC_d (s : State) (w : Word) : (s.setPC w).d = s.d := rfl
@[simp] theorem State.setPC_e (s : State) (w : Word) : (s.setPC w).e = s.e := rfl
@[simp] theorem State.setPC_h (s : State) (w : Word) : (s.setPC w).h = s.h := rfl
@[simp] theorem State.setPC_l (s : State) (w : Word) : (s.setPC w).l = s.l := rfl
@[simp] theorem State.setPC_sp (s : State) (w : Word) : (s.setPC w).sp = s.sp := rfl
@[simp] theorem State.setPC_pc (s : State) (w : Word) : (s.setPC w).pc = w := rfl
@[simp] theorem State.setPC_flags (s : State) (w : Word) : (s.setPC w).flags = s.flags := rfl
@[simp] theorem State.setPC_inte (s : State) (w : Word) : (s.setPC w).inte = s.inte := rfl
@[simp] theorem State.setPC_halted (s : State) (w : Word) : (s.setPC w).halted = s.halted := rfl
@[simp] theorem State.setPC_fault (s : State) (w : Word) : (s.setPC w).fault = s.fault := rfl
@[simp] theorem State.setPC_record (s : State) (w : Word) : (s.setPC w).record = s.record := rfl
@[simp] theorem State.setPC_mem (s : State) (w : Word) : (s.setPC w).mem = s.mem := rfl
@[simp] theorem State.setPC_portOut (s : State) (w : Word) : (s.setPC w).portOut = s.portOut := rfl
@[simp] theorem State.setPC_portIn (s : State) (w : Word) : (s.setPC w).portIn = s.portIn := rfl
@[simp] theorem State.setPC_draws (s : State) (w : Word) : (s.setPC w).draws = s.draws := rfl
@[simp] theorem State.setPC_irqs (s : State) (w : Word) : (s.setPC w).irqs = s.irqs := rfl
@[simp] theorem State.setPC_choices (s : State) (w : Word) : (s.setPC w).choices = s.choices := rfl

/-! ### State.setFlags -/

@[simp] theorem State.setFlags_a (s : State) (f : Flags) : (s.setFlags f).a = s.a := rfl
@[simp] theorem State.setFlags_b (s : State) (f : Flags) : (s.setFlags f).b = s.b := rfl
@[simp] theorem State.setFlags_c (s : State) (f : Flags) : (s.setFlags f).c = s.c := rfl
@[simp] theorem State.setFlags_d (s : State) (f : Flags) : (s.setFlags f).d = s.d := rfl
@[simp] theorem State.setFlags_e (s : State) (f : Flags) : (s.setFlags f).e = s.e := rfl
@[simp] theorem State.setFlags_h (s : State) (f : Flags) : (s.setFlags f).h = s.h := rfl
@[simp] theorem State.setFlags_l (s : State) (f : Flags) : (s.setFlags f).l = s.l := rfl
@[simp] theorem State.setFlags_sp (s : State) (f : Flags) : (s.setFlags f).sp = s.sp := rfl
@[simp] theorem State.setFlags_pc (s : State) (f : Flags) : (s.setFlags f).pc = s.pc := rfl
@[simp] theorem State.setFlags_flags (s : State) (f : Flags) : (s.setFlags f).flags = f := rfl
@[simp] theorem State.setFlags_inte (s : State) (f : Flags) : (s.setFlags f).inte = s.inte := rfl
@[simp] theorem State.setFlags_halted (s : State) (f : Flags) : (s.setFlags f).halted = s.halted := rfl
@[simp] theorem State.setFlags_fault (s : State) (f : Flags) : (s.setFlags f).fault = s.fault := rfl
@[simp] theorem State.setFlags_record (s : State) (f : Flags) : (s.setFlags f).record = s.record := rfl
@[simp] theorem State.setFlags_mem (s : State) (f : Flags) : (s.setFlags f).mem = s.mem := rfl
@[simp] theorem State.setFlags_portOut (s : State) (f : Flags) : (s.setFlags f).portOut = s.portOut := rfl
@[simp] theorem State.setFlags_portIn (s : State) (f : Flags) : (s.setFlags f).portIn = s.portIn := rfl
@[simp] theorem State.setFlags_draws (s : State) (f : Flags) : (s.setFlags f).draws = s.draws := rfl
@[simp] theorem State.setFlags_irqs (s : State) (f : Flags) : (s.setFlags f).irqs = s.irqs := rfl
@[simp] theorem State.setFlags_choices (s : State) (f : Flags) : (s.setFlags f).choices = s.choices := rfl

/-! ### State.setInte -/

@[simp] theorem State.setInte_a (s : State) (v : Bool) : (s.setInte v).a = s.a := rfl
@[simp] theorem State.setInte_b (s : State) (v : Bool) : (s.setInte v).b = s.b := rfl
@[simp] theorem State.setInte_c (s : State) (v : Bool) : (s.setInte v).c = s.c := rfl
@[simp] theorem State.setInte_d (s : State) (v : Bool) : (s.setInte v).d = s.d := rfl
@[simp] theorem State.setInte_e (s : State) (v : Bool) : (s.setInte v).e = s.e := rfl
@[simp] theorem State.setInte_h (s : State) (v : Bool) : (s.setInte v).h = s.h := rfl
@[simp] theorem State.setInte_l (s : State) (v : Bool) : (s.setInte v).l = s.l := rfl
@[simp] theorem State.setInte_sp (s : State) (v : Bool) : (s.setInte v).sp = s.sp := rfl
@[simp] theorem State.setInte_pc (s : State) (v : Bool) : (s.setInte v).pc = s.pc := rfl
@[simp] theorem State.setInte_flags (s : State) (v : Bool) : (s.setInte v).flags = s.flags := rfl
@[simp] theorem State.setInte_inte (s : State) (v : Bool) : (s.setInte v).inte = v := rfl
@[simp] theorem State.setInte_halted (s : State) (v : Bool) : (s.setInte v).halted = s.halted := rfl
@[simp] theorem State.setInte_fault (s : State) (v : Bool) : (s.setInte v).fault = s.fault := rfl
@[simp] theorem State.setInte_record (s : State) (v : Bool) : (s.setInte v).record = s.record := rfl
@[simp] theorem State.setInte_mem (s : State) (v : Bool) : (s.setInte v).mem = s.mem := rfl
@[simp] theorem State.setInte_portOut (s : State) (v : Bool) : (s.setInte v).portOut = s.portOut := rfl
@[simp] theorem State.setInte_portIn (s : State) (v : Bool) : (s.setInte v).portIn = s.portIn := rfl
@[simp] theorem State.setInte_draws (s : State) (v : Bool) : (s.setInte v).draws = s.draws := rfl
@[simp] theorem State.setInte_irqs (s : State) (v : Bool) : (s.setInte v).irqs = s.irqs := rfl
@[simp] theorem State.setInte_choices (s : State) (v : Bool) : (s.setInte v).choices = s.choices := rfl

/-! ### State.advance -/

@[simp] theorem State.advance_a (s : State) (n : Nat) : (s.advance n).a = s.a := rfl
@[simp] theorem State.advance_b (s : State) (n : Nat) : (s.advance n).b = s.b := rfl
@[simp] theorem State.advance_c (s : State) (n : Nat) : (s.advance n).c = s.c := rfl
@[simp] theorem State.advance_d (s : State) (n : Nat) : (s.advance n).d = s.d := rfl
@[simp] theorem State.advance_e (s : State) (n : Nat) : (s.advance n).e = s.e := rfl
@[simp] theorem State.advance_h (s : State) (n : Nat) : (s.advance n).h = s.h := rfl
@[simp] theorem State.advance_l (s : State) (n : Nat) : (s.advance n).l = s.l := rfl
@[simp] theorem State.advance_sp (s : State) (n : Nat) : (s.advance n).sp = s.sp := rfl
@[simp] theorem State.advance_pc (s : State) (n : Nat) : (s.advance n).pc = s.pc + BitVec.ofNat 16 n := rfl
@[simp] theorem State.advance_flags (s : State) (n : Nat) : (s.advance n).flags = s.flags := rfl
@[simp] theorem State.advance_inte (s : State) (n : Nat) : (s.advance n).inte = s.inte := rfl
@[simp] theorem State.advance_halted (s : State) (n : Nat) : (s.advance n).halted = s.halted := rfl
@[simp] theorem State.advance_fault (s : State) (n : Nat) : (s.advance n).fault = s.fault := rfl
@[simp] theorem State.advance_record (s : State) (n : Nat) : (s.advance n).record = s.record := rfl
@[simp] theorem State.advance_mem (s : State) (n : Nat) : (s.advance n).mem = s.mem := rfl
@[simp] theorem State.advance_portOut (s : State) (n : Nat) : (s.advance n).portOut = s.portOut := rfl
@[simp] theorem State.advance_portIn (s : State) (n : Nat) : (s.advance n).portIn = s.portIn := rfl
@[simp] theorem State.advance_draws (s : State) (n : Nat) : (s.advance n).draws = s.draws := rfl
@[simp] theorem State.advance_irqs (s : State) (n : Nat) : (s.advance n).irqs = s.irqs := rfl
@[simp] theorem State.advance_choices (s : State) (n : Nat) : (s.advance n).choices = s.choices := rfl

/-! ### State.writeWord -/

@[simp] theorem State.writeWord_a (s : State) (x w : Word) : (s.writeWord x w).a = s.a := by
  simp [State.writeWord]
@[simp] theorem State.writeWord_b (s : State) (x w : Word) : (s.writeWord x w).b = s.b := by
  simp [State.writeWord]
@[simp] theorem State.writeWord_c (s : State) (x w : Word) : (s.writeWord x w).c = s.c := by
  simp [State.writeWord]
@[simp] theorem State.writeWord_d (s : State) (x w : Word) : (s.writeWord x w).d = s.d := by
  simp [State.writeWord]
@[simp] theorem State.writeWord_e (s : State) (x w : Word) : (s.writeWord x w).e = s.e := by
  simp [State.writeWord]
@[simp] theorem State.writeWord_h (s : State) (x w : Word) : (s.writeWord x w).h = s.h := by
  simp [State.writeWord]
@[simp] theorem State.writeWord_l (s : State) (x w : Word) : (s.writeWord x w).l = s.l := by
  simp [State.writeWord]
@[simp] theorem State.writeWord_sp (s : State) (x w : Word) : (s.writeWord x w).sp = s.sp := by
  simp [State.writeWord]
@[simp] theorem State.writeWord_pc (s : State) (x w : Word) : (s.writeWord x w).pc = s.pc := by
  simp [State.writeWord]
@[simp] theorem State.writeWord_flags (s : State) (x w : Word) : (s.writeWord x w).flags = s.flags := by
  simp [State.writeWord]
@[simp] theorem State.writeWord_inte (s : State) (x w : Word) : (s.writeWord x w).inte = s.inte := by
  simp [State.writeWord]
@[simp] theorem State.writeWord_halted (s : State) (x w : Word) : (s.writeWord x w).halted = s.halted := by
  simp [State.writeWord]
@[simp] theorem State.writeWord_fault (s : State) (x w : Word) : (s.writeWord x w).fault = s.fault := by
  simp [State.writeWord]
@[simp] theorem State.writeWord_record (s : State) (x w : Word) : (s.writeWord x w).record = s.record := by
  simp [State.writeWord]
@[simp] theorem State.writeWord_mem (s : State) (x w : Word) : (s.writeWord x w).mem = ((s.writeByte x (loByte w)).writeByte (x + 1) (hiByte w)).mem := rfl
@[simp] theorem State.writeWord_portOut (s : State) (x w : Word) : (s.writeWord x w).portOut = s.portOut := by
  simp [State.writeWord]
@[simp] theorem State.writeWord_portIn (s : State) (x w : Word) : (s.writeWord x w).portIn = s.portIn := by
  simp [State.writeWord]
@[simp] theorem State.writeWord_draws (s : State) (x w : Word) : (s.writeWord x w).draws = s.draws := by
  simp [State.writeWord]
@[simp] theorem State.writeWord_irqs (s : State) (x w : Word) : (s.writeWord x w).irqs = s.irqs := by
  simp [State.writeWord]
@[simp] theorem State.writeWord_choices (s : State) (x w : Word) : (s.writeWord x w).choices = s.choices := by
  simp [State.writeWord]

/-! ### State.push16 -/

@[simp] theorem State.push16_a (s : State) (w : Word) : (s.push16 w).a = s.a := by
  simp [State.push16]
@[simp] theorem State.push16_b (s : State) (w : Word) : (s.push16 w).b = s.b := by
  simp [State.push16]
@[simp] theorem State.push16_c (s : State) (w : Word) : (s.push16 w).c = s.c := by
  simp [State.push16]
@[simp] theorem State.push16_d (s : State) (w : Word) : (s.push16 w).d = s.d := by
  simp [State.push16]
@[simp] theorem State.push16_e (s : State) (w : Word) : (s.push16 w).e = s.e := by
  simp [State.push16]
@[simp] theorem State.push16_h (s : State) (w : Word) : (s.push16 w).h = s.h := by
  simp [State.push16]
@[simp] theorem State.push16_l (s : State) (w : Word) : (s.push16 w).l = s.l := by
  simp [State.push16]
@[simp] theorem State.push16_sp (s : State) (w : Word) : (s.push16 w).sp = s.sp - 2 := by
  simp [State.push16]
@[simp] theorem State.push16_pc (s : State) (w : Word) : (s.push16 w).pc = s.pc := by
  simp [State.push16]
@[simp] theorem State.push16_flags (s : State) (w : Word) : (s.push16 w).flags = s.flags := by
  simp [State.push16]
@[simp] theorem State.push16_inte (s : State) (w : Word) : (s.push16 w).inte = s.inte := by
  simp [State.push16]
@[simp] theorem State.push16_halted (s : State) (w : Word) : (s.push16 w).halted = s.halted := by
  simp [State.push16]
@[simp] theorem State.push16_fault (s : State) (w : Word) : (s.push16 w).fault = s.fault := by
  simp [State.push16]
@[simp] theorem State.push16_record (s : State) (w : Word) : (s.push16 w).record = s.record := by
  simp [State.push16]
@[simp] theorem State.push16_mem (s : State) (w : Word) : (s.push16 w).mem = ((s.writeByte (s.sp - 1) (hiByte w)).writeByte (s.sp - 2) (loByte w)).mem := rfl
@[simp] theorem State.push16_portOut (s : State) (w : Word) : (s.push16 w).portOut = s.portOut := by
  simp [State.push16]
@[simp] theorem State.push16_portIn (s : State) (w : Word) : (s.push16 w).portIn = s.portIn := by
  simp [State.push16]
@[simp] theorem State.push16_draws (s : State) (w : Word) : (s.push16 w).draws = s.draws := by
  simp [State.push16]
@[simp] theorem State.push16_irqs (s : State) (w : Word) : (s.push16 w).irqs = s.irqs := by
  simp [State.push16]
@[simp] theorem State.push16_choices (s : State) (w : Word) : (s.push16 w).choices = s.choices := by
  simp [State.push16]

/-! ### State.dropTop -/

@[simp] theorem State.dropTop_a (s : State) : s.dropTop.a = s.a := rfl
@[simp] theorem State.dropTop_b (s : State) : s.dropTop.b = s.b := rfl
@[simp] theorem State.dropTop_c (s : State) : s.dropTop.c = s.c := rfl
@[simp] theorem State.dropTop_d (s : State) : s.dropTop.d = s.d := rfl
@[simp] theorem State.dropTop_e (s : State) : s.dropTop.e = s.e := rfl
@[simp] theorem State.dropTop_h (s : State) : s.dropTop.h = s.h := rfl
@[simp] theorem State.dropTop_l (s : State) : s.dropTop.l = s.l := rfl
@[simp] theorem State.dropTop_sp (s : State) : s.dropTop.sp = s.sp + 2 := rfl
@[simp] theorem State.dropTop_pc (s : State) : s.dropTop.pc = s.pc := rfl
@[simp] theorem State.dropTop_flags (s : State) : s.dropTop.flags = s.flags := rfl
@[simp] theorem State.dropTop_inte (s : State) : s.dropTop.inte = s.inte := rfl
@[simp] theorem State.dropTop_halted (s : State) : s.dropTop.halted = s.halted := rfl
@[simp] theorem State.dropTop_fault (s : State) : s.dropTop.fault = s.fault := rfl
@[simp] theorem State.dropTop_record (s : State) : s.dropTop.record = s.record := rfl
@[simp] theorem State.dropTop_mem (s : State) : s.dropTop.mem = s.mem := rfl
@[simp] theorem State.dropTop_portOut (s : State) : s.dropTop.portOut = s.portOut := rfl
@[simp] theorem State.dropTop_portIn (s : State) : s.dropTop.portIn = s.portIn := rfl
@[simp] theorem State.dropTop_draws (s : State) : s.dropTop.draws = s.draws := rfl
@[simp] theorem State.dropTop_irqs (s : State) : s.dropTop.irqs = s.irqs := rfl
@[simp] theorem State.dropTop_choices (s : State) : s.dropTop.choices = s.choices := rfl

/-! ### State.callTo -/

@[simp] theorem State.callTo_a (s : State) (w : Word) : (s.callTo w).a = s.a := by
  simp [State.callTo]
@[simp] theorem State.callTo_b (s : State) (w : Word) : (s.callTo w).b = s.b := by
  simp [State.callTo]
@[simp] theorem State.callTo_c (s : State) (w : Word) : (s.callTo w).c = s.c := by
  simp [State.callTo]
@[simp] theorem State.callTo_d (s : State) (w : Word) : (s.callTo w).d = s.d := by
  simp [State.callTo]
@[simp] theorem State.callTo_e (s : State) (w : Word) : (s.callTo w).e = s.e := by
  simp [State.callTo]
@[simp] theorem State.callTo_h (s : State) (w : Word) : (s.callTo w).h = s.h := by
  simp [State.callTo]
@[simp] theorem State.callTo_l (s : State) (w : Word) : (s.callTo w).l = s.l := by
  simp [State.callTo]
@[simp] theorem State.callTo_sp (s : State) (w : Word) : (s.callTo w).sp = s.sp - 2 := by
  simp [State.callTo]
@[simp] theorem State.callTo_pc (s : State) (w : Word) : (s.callTo w).pc = w := by
  simp [State.callTo]
@[simp] theorem State.callTo_flags (s : State) (w : Word) : (s.callTo w).flags = s.flags := by
  simp [State.callTo]
@[simp] theorem State.callTo_inte (s : State) (w : Word) : (s.callTo w).inte = s.inte := by
  simp [State.callTo]
@[simp] theorem State.callTo_halted (s : State) (w : Word) : (s.callTo w).halted = s.halted := by
  simp [State.callTo]
@[simp] theorem State.callTo_fault (s : State) (w : Word) : (s.callTo w).fault = s.fault := by
  simp [State.callTo]
@[simp] theorem State.callTo_record (s : State) (w : Word) : (s.callTo w).record = s.record := by
  simp [State.callTo]
@[simp] theorem State.callTo_mem (s : State) (w : Word) : (s.callTo w).mem = (s.push16 s.pc).mem := rfl
@[simp] theorem State.callTo_portOut (s : State) (w : Word) : (s.callTo w).portOut = s.portOut := by
  simp [State.callTo]
@[simp] theorem State.callTo_portIn (s : State) (w : Word) : (s.callTo w).portIn = s.portIn := by
  simp [State.callTo]
@[simp] theorem State.callTo_draws (s : State) (w : Word) : (s.callTo w).draws = s.draws := by
  simp [State.callTo]
@[simp] theorem State.callTo_irqs (s : State) (w : Word) : (s.callTo w).irqs = s.irqs := by
  simp [State.callTo]
@[simp] theorem State.callTo_choices (s : State) (w : Word) : (s.callTo w).choices = s.choices := by
  simp [State.callTo]

/-! ### State.returnFromCall -/

@[simp] theorem State.returnFromCall_a (s : State) : s.returnFromCall.a = s.a := by
  simp [State.returnFromCall]
@[simp] theorem State.returnFromCall_b (s : State) : s.returnFromCall.b = s.b := by
  simp [State.returnFromCall]
@[simp] theorem State.returnFromCall_c (s : State) : s.returnFromCall.c = s.c := by
  simp [State.returnFromCall]
@[simp] theorem State.returnFromCall_d (s : State) : s.returnFromCall.d = s.d := by
  simp [State.returnFromCall]
@[simp] theorem State.returnFromCall_e (s : State) : s.returnFromCall.e = s.e := by
  simp [State.returnFromCall]
@[simp] theorem State.returnFromCall_h (s : State) : s.returnFromCall.h = s.h := by
  simp [State.returnFromCall]
@[simp] theorem State.returnFromCall_l (s : State) : s.returnFromCall.l = s.l := by
  simp [State.returnFromCall]
@[simp] theorem State.returnFromCall_sp (s : State) : s.returnFromCall.sp = s.sp + 2 := by
  simp [State.returnFromCall]
@[simp] theorem State.returnFromCall_pc (s : State) : s.returnFromCall.pc = s.popValue := by
  simp [State.returnFromCall]
@[simp] theorem State.returnFromCall_flags (s : State) : s.returnFromCall.flags = s.flags := by
  simp [State.returnFromCall]
@[simp] theorem State.returnFromCall_inte (s : State) : s.returnFromCall.inte = s.inte := by
  simp [State.returnFromCall]
@[simp] theorem State.returnFromCall_halted (s : State) : s.returnFromCall.halted = s.halted := by
  simp [State.returnFromCall]
@[simp] theorem State.returnFromCall_fault (s : State) : s.returnFromCall.fault = s.fault := by
  simp [State.returnFromCall]
@[simp] theorem State.returnFromCall_record (s : State) : s.returnFromCall.record = s.record := by
  simp [State.returnFromCall]
@[simp] theorem State.returnFromCall_mem (s : State) : s.returnFromCall.mem = s.mem := rfl
@[simp] theorem State.returnFromCall_portOut (s : State) : s.returnFromCall.portOut = s.portOut := by
  simp [State.returnFromCall]
@[simp] theorem State.returnFromCall_portIn (s : State) : s.returnFromCall.portIn = s.portIn := by
  simp [State.returnFromCall]
@[simp] theorem State.returnFromCall_draws (s : State) : s.returnFromCall.draws = s.draws := by
  simp [State.returnFromCall]
@[simp] theorem State.returnFromCall_irqs (s : State) : s.returnFromCall.irqs = s.irqs := by
  simp [State.returnFromCall]
@[simp] theorem State.returnFromCall_choices (s : State) : s.returnFromCall.choices = s.choices := by
  simp [State.returnFromCall]

/-! ### State.addToA -/

@[simp] theorem State.addToA_a (s : State) (v : Byte) (cin : Bool) : (s.addToA v cin).a = add8 s.a v cin := rfl
@[simp] theorem State.addToA_b (s : State) (v : Byte) (cin : Bool) : (s.addToA v cin).b = s.b := rfl
@[simp] theorem State.addToA_c (s : State) (v : Byte) (cin : Bool) : (s.addToA v cin).c = s.c := rfl
@[simp] theorem State.addToA_d (s : State) (v : Byte) (cin : Bool) : (s.addToA v cin).d = s.d := rfl
@[simp] theorem State.addToA_e (s : State) (v : Byte) (cin : Bool) : (s.addToA v cin).e = s.e := rfl
@[simp] theorem State.addToA_h (s : State) (v : Byte) (cin : Bool) : (s.addToA v cin).h = s.h := rfl
@[simp] theorem State.addToA_l (s : State) (v : Byte) (cin : Bool) : (s.addToA v cin).l = s.l := rfl
@[simp] theorem State.addToA_sp (s : State) (v : Byte) (cin : Bool) : (s.addToA v cin).sp = s.sp := rfl
@[simp] theorem State.addToA_pc (s : State) (v : Byte) (cin : Bool) : (s.addToA v cin).pc = s.pc := rfl
@[simp] theorem State.addToA_flags (s : State) (v : Byte) (cin : Bool) : (s.addToA v cin).flags = s.flags.afterAdd s.a v cin := rfl
@[simp] theorem State.addToA_inte (s : State) (v : Byte) (cin : Bool) : (s.addToA v cin).inte = s.inte := rfl
@[simp] theorem State.addToA_halted (s : State) (v : Byte) (cin : Bool) : (s.addToA v cin).halted = s.halted := rfl
@[simp] theorem State.addToA_fault (s : State) (v : Byte) (cin : Bool) : (s.addToA v cin).fault = s.fault := rfl
@[simp] theorem State.addToA_record (s : State) (v : Byte) (cin : Bool) : (s.addToA v cin).record = s.record := rfl
@[simp] theorem State.addToA_mem (s : State) (v : Byte) (cin : Bool) : (s.addToA v cin).mem = s.mem := rfl
@[simp] theorem State.addToA_portOut (s : State) (v : Byte) (cin : Bool) : (s.addToA v cin).portOut = s.portOut := rfl
@[simp] theorem State.addToA_portIn (s : State) (v : Byte) (cin : Bool) : (s.addToA v cin).portIn = s.portIn := rfl
@[simp] theorem State.addToA_draws (s : State) (v : Byte) (cin : Bool) : (s.addToA v cin).draws = s.draws := rfl
@[simp] theorem State.addToA_irqs (s : State) (v : Byte) (cin : Bool) : (s.addToA v cin).irqs = s.irqs := rfl
@[simp] theorem State.addToA_choices (s : State) (v : Byte) (cin : Bool) : (s.addToA v cin).choices = s.choices := rfl

/-! ### State.compareA -/

@[simp] theorem State.compareA_a (s : State) (cfg : Config) (v : Byte) : (State.compareA cfg s v).a = s.a := rfl
@[simp] theorem State.compareA_b (s : State) (cfg : Config) (v : Byte) : (State.compareA cfg s v).b = s.b := rfl
@[simp] theorem State.compareA_c (s : State) (cfg : Config) (v : Byte) : (State.compareA cfg s v).c = s.c := rfl
@[simp] theorem State.compareA_d (s : State) (cfg : Config) (v : Byte) : (State.compareA cfg s v).d = s.d := rfl
@[simp] theorem State.compareA_e (s : State) (cfg : Config) (v : Byte) : (State.compareA cfg s v).e = s.e := rfl
@[simp] theorem State.compareA_h (s : State) (cfg : Config) (v : Byte) : (State.compareA cfg s v).h = s.h := rfl
@[simp] theorem State.compareA_l (s : State) (cfg : Config) (v : Byte) : (State.compareA cfg s v).l = s.l := rfl
@[simp] theorem State.compareA_sp (s : State) (cfg : Config) (v : Byte) : (State.compareA cfg s v).sp = s.sp := rfl
@[simp] theorem State.compareA_pc (s : State) (cfg : Config) (v : Byte) : (State.compareA cfg s v).pc = s.pc := rfl
@[simp] theorem State.compareA_flags (s : State) (cfg : Config) (v : Byte) : (State.compareA cfg s v).flags = s.flags.afterSub cfg s.a v false := rfl
@[simp] theorem State.compareA_inte (s : State) (cfg : Config) (v : Byte) : (State.compareA cfg s v).inte = s.inte := rfl
@[simp] theorem State.compareA_halted (s : State) (cfg : Config) (v : Byte) : (State.compareA cfg s v).halted = s.halted := rfl
@[simp] theorem State.compareA_fault (s : State) (cfg : Config) (v : Byte) : (State.compareA cfg s v).fault = s.fault := rfl
@[simp] theorem State.compareA_record (s : State) (cfg : Config) (v : Byte) : (State.compareA cfg s v).record = s.record := rfl
@[simp] theorem State.compareA_mem (s : State) (cfg : Config) (v : Byte) : (State.compareA cfg s v).mem = s.mem := rfl
@[simp] theorem State.compareA_portOut (s : State) (cfg : Config) (v : Byte) : (State.compareA cfg s v).portOut = s.portOut := rfl
@[simp] theorem State.compareA_portIn (s : State) (cfg : Config) (v : Byte) : (State.compareA cfg s v).portIn = s.portIn := rfl
@[simp] theorem State.compareA_draws (s : State) (cfg : Config) (v : Byte) : (State.compareA cfg s v).draws = s.draws := rfl
@[simp] theorem State.compareA_irqs (s : State) (cfg : Config) (v : Byte) : (State.compareA cfg s v).irqs = s.irqs := rfl
@[simp] theorem State.compareA_choices (s : State) (cfg : Config) (v : Byte) : (State.compareA cfg s v).choices = s.choices := rfl

/-! ### State.subFromA -/

@[simp] theorem State.subFromA_a (s : State) (cfg : Config) (v : Byte) (bin : Bool) : (State.subFromA cfg s v bin).a = sub8 s.a v bin := rfl
@[simp] theorem State.subFromA_b (s : State) (cfg : Config) (v : Byte) (bin : Bool) : (State.subFromA cfg s v bin).b = s.b := rfl
@[simp] theorem State.subFromA_c (s : State) (cfg : Config) (v : Byte) (bin : Bool) : (State.subFromA cfg s v bin).c = s.c := rfl
@[simp] theorem State.subFromA_d (s : State) (cfg : Config) (v : Byte) (bin : Bool) : (State.subFromA cfg s v bin).d = s.d := rfl
@[simp] theorem State.subFromA_e (s : State) (cfg : Config) (v : Byte) (bin : Bool) : (State.subFromA cfg s v bin).e = s.e := rfl
@[simp] theorem State.subFromA_h (s : State) (cfg : Config) (v : Byte) (bin : Bool) : (State.subFromA cfg s v bin).h = s.h := rfl
@[simp] theorem State.subFromA_l (s : State) (cfg : Config) (v : Byte) (bin : Bool) : (State.subFromA cfg s v bin).l = s.l := rfl
@[simp] theorem State.subFromA_sp (s : State) (cfg : Config) (v : Byte) (bin : Bool) : (State.subFromA cfg s v bin).sp = s.sp := rfl
@[simp] theorem State.subFromA_pc (s : State) (cfg : Config) (v : Byte) (bin : Bool) : (State.subFromA cfg s v bin).pc = s.pc := rfl
@[simp] theorem State.subFromA_flags (s : State) (cfg : Config) (v : Byte) (bin : Bool) : (State.subFromA cfg s v bin).flags = s.flags.afterSub cfg s.a v bin := rfl
@[simp] theorem State.subFromA_inte (s : State) (cfg : Config) (v : Byte) (bin : Bool) : (State.subFromA cfg s v bin).inte = s.inte := rfl
@[simp] theorem State.subFromA_halted (s : State) (cfg : Config) (v : Byte) (bin : Bool) : (State.subFromA cfg s v bin).halted = s.halted := rfl
@[simp] theorem State.subFromA_fault (s : State) (cfg : Config) (v : Byte) (bin : Bool) : (State.subFromA cfg s v bin).fault = s.fault := rfl
@[simp] theorem State.subFromA_record (s : State) (cfg : Config) (v : Byte) (bin : Bool) : (State.subFromA cfg s v bin).record = s.record := rfl
@[simp] theorem State.subFromA_mem (s : State) (cfg : Config) (v : Byte) (bin : Bool) : (State.subFromA cfg s v bin).mem = s.mem := rfl
@[simp] theorem State.subFromA_portOut (s : State) (cfg : Config) (v : Byte) (bin : Bool) : (State.subFromA cfg s v bin).portOut = s.portOut := rfl
@[simp] theorem State.subFromA_portIn (s : State) (cfg : Config) (v : Byte) (bin : Bool) : (State.subFromA cfg s v bin).portIn = s.portIn := rfl
@[simp] theorem State.subFromA_draws (s : State) (cfg : Config) (v : Byte) (bin : Bool) : (State.subFromA cfg s v bin).draws = s.draws := rfl
@[simp] theorem State.subFromA_irqs (s : State) (cfg : Config) (v : Byte) (bin : Bool) : (State.subFromA cfg s v bin).irqs = s.irqs := rfl
@[simp] theorem State.subFromA_choices (s : State) (cfg : Config) (v : Byte) (bin : Bool) : (State.subFromA cfg s v bin).choices = s.choices := rfl

/-! ### State.logicToA -/

@[simp] theorem State.logicToA_a (s : State) (cfg : Config) (res : Byte) : (State.logicToA cfg s res).a = res := rfl
@[simp] theorem State.logicToA_b (s : State) (cfg : Config) (res : Byte) : (State.logicToA cfg s res).b = s.b := rfl
@[simp] theorem State.logicToA_c (s : State) (cfg : Config) (res : Byte) : (State.logicToA cfg s res).c = s.c := rfl
@[simp] theorem State.logicToA_d (s : State) (cfg : Config) (res : Byte) : (State.logicToA cfg s res).d = s.d := rfl
@[simp] theorem State.logicToA_e (s : State) (cfg : Config) (res : Byte) : (State.logicToA cfg s res).e = s.e := rfl
@[simp] theorem State.logicToA_h (s : State) (cfg : Config) (res : Byte) : (State.logicToA cfg s res).h = s.h := rfl
@[simp] theorem State.logicToA_l (s : State) (cfg : Config) (res : Byte) : (State.logicToA cfg s res).l = s.l := rfl
@[simp] theorem State.logicToA_sp (s : State) (cfg : Config) (res : Byte) : (State.logicToA cfg s res).sp = s.sp := rfl
@[simp] theorem State.logicToA_pc (s : State) (cfg : Config) (res : Byte) : (State.logicToA cfg s res).pc = s.pc := rfl
@[simp] theorem State.logicToA_flags (s : State) (cfg : Config) (res : Byte) : (State.logicToA cfg s res).flags = s.flags.afterLogic cfg res := rfl
@[simp] theorem State.logicToA_inte (s : State) (cfg : Config) (res : Byte) : (State.logicToA cfg s res).inte = s.inte := rfl
@[simp] theorem State.logicToA_halted (s : State) (cfg : Config) (res : Byte) : (State.logicToA cfg s res).halted = s.halted := rfl
@[simp] theorem State.logicToA_fault (s : State) (cfg : Config) (res : Byte) : (State.logicToA cfg s res).fault = s.fault := rfl
@[simp] theorem State.logicToA_record (s : State) (cfg : Config) (res : Byte) : (State.logicToA cfg s res).record = s.record := rfl
@[simp] theorem State.logicToA_mem (s : State) (cfg : Config) (res : Byte) : (State.logicToA cfg s res).mem = s.mem := rfl
@[simp] theorem State.logicToA_portOut (s : State) (cfg : Config) (res : Byte) : (State.logicToA cfg s res).portOut = s.portOut := rfl
@[simp] theorem State.logicToA_portIn (s : State) (cfg : Config) (res : Byte) : (State.logicToA cfg s res).portIn = s.portIn := rfl
@[simp] theorem State.logicToA_draws (s : State) (cfg : Config) (res : Byte) : (State.logicToA cfg s res).draws = s.draws := rfl
@[simp] theorem State.logicToA_irqs (s : State) (cfg : Config) (res : Byte) : (State.logicToA cfg s res).irqs = s.irqs := rfl
@[simp] theorem State.logicToA_choices (s : State) (cfg : Config) (res : Byte) : (State.logicToA cfg s res).choices = s.choices := rfl

/-! ### State.rotateA -/

@[simp] theorem State.rotateA_a (s : State) (res : Byte) (cy : Bool) : (s.rotateA res cy).a = res := rfl
@[simp] theorem State.rotateA_b (s : State) (res : Byte) (cy : Bool) : (s.rotateA res cy).b = s.b := rfl
@[simp] theorem State.rotateA_c (s : State) (res : Byte) (cy : Bool) : (s.rotateA res cy).c = s.c := rfl
@[simp] theorem State.rotateA_d (s : State) (res : Byte) (cy : Bool) : (s.rotateA res cy).d = s.d := rfl
@[simp] theorem State.rotateA_e (s : State) (res : Byte) (cy : Bool) : (s.rotateA res cy).e = s.e := rfl
@[simp] theorem State.rotateA_h (s : State) (res : Byte) (cy : Bool) : (s.rotateA res cy).h = s.h := rfl
@[simp] theorem State.rotateA_l (s : State) (res : Byte) (cy : Bool) : (s.rotateA res cy).l = s.l := rfl
@[simp] theorem State.rotateA_sp (s : State) (res : Byte) (cy : Bool) : (s.rotateA res cy).sp = s.sp := rfl
@[simp] theorem State.rotateA_pc (s : State) (res : Byte) (cy : Bool) : (s.rotateA res cy).pc = s.pc := rfl
@[simp] theorem State.rotateA_flags (s : State) (res : Byte) (cy : Bool) : (s.rotateA res cy).flags = s.flags.withCarry cy := rfl
@[simp] theorem State.rotateA_inte (s : State) (res : Byte) (cy : Bool) : (s.rotateA res cy).inte = s.inte := rfl
@[simp] theorem State.rotateA_halted (s : State) (res : Byte) (cy : Bool) : (s.rotateA res cy).halted = s.halted := rfl
@[simp] theorem State.rotateA_fault (s : State) (res : Byte) (cy : Bool) : (s.rotateA res cy).fault = s.fault := rfl
@[simp] theorem State.rotateA_record (s : State) (res : Byte) (cy : Bool) : (s.rotateA res cy).record = s.record := rfl
@[simp] theorem State.rotateA_mem (s : State) (res : Byte) (cy : Bool) : (s.rotateA res cy).mem = s.mem := rfl
@[simp] theorem State.rotateA_portOut (s : State) (res : Byte) (cy : Bool) : (s.rotateA res cy).portOut = s.portOut := rfl
@[simp] theorem State.rotateA_portIn (s : State) (res : Byte) (cy : Bool) : (s.rotateA res cy).portIn = s.portIn := rfl
@[simp] theorem State.rotateA_draws (s : State) (res : Byte) (cy : Bool) : (s.rotateA res cy).draws = s.draws := rfl
@[simp] theorem State.rotateA_irqs (s : State) (res : Byte) (cy : Bool) : (s.rotateA res cy).irqs = s.irqs := rfl
@[simp] theorem State.rotateA_choices (s : State) (res : Byte) (cy : Bool) : (s.rotateA res cy).choices = s.choices := rfl

/-! ### State.countM -/

@[simp] theorem State.countM_a (s : State) (res : Byte) : (s.countM res).a = s.a := rfl
@[simp] theorem State.countM_b (s : State) (res : Byte) : (s.countM res).b = s.b := rfl
@[simp] theorem State.countM_c (s : State) (res : Byte) : (s.countM res).c = s.c := rfl
@[simp] theorem State.countM_d (s : State) (res : Byte) : (s.countM res).d = s.d := rfl
@[simp] theorem State.countM_e (s : State) (res : Byte) : (s.countM res).e = s.e := rfl
@[simp] theorem State.countM_h (s : State) (res : Byte) : (s.countM res).h = s.h := rfl
@[simp] theorem State.countM_l (s : State) (res : Byte) : (s.countM res).l = s.l := rfl
@[simp] theorem State.countM_sp (s : State) (res : Byte) : (s.countM res).sp = s.sp := rfl
@[simp] theorem State.countM_pc (s : State) (res : Byte) : (s.countM res).pc = s.pc := rfl
@[simp] theorem State.countM_flags (s : State) (res : Byte) : (s.countM res).flags = s.flags.zsp res := rfl
@[simp] theorem State.countM_inte (s : State) (res : Byte) : (s.countM res).inte = s.inte := rfl
@[simp] theorem State.countM_halted (s : State) (res : Byte) : (s.countM res).halted = s.halted := rfl
@[simp] theorem State.countM_fault (s : State) (res : Byte) : (s.countM res).fault = s.fault := rfl
@[simp] theorem State.countM_record (s : State) (res : Byte) : (s.countM res).record = s.record := rfl
@[simp] theorem State.countM_mem (s : State) (res : Byte) : (s.countM res).mem = (s.writeByte s.hl res).mem := rfl
@[simp] theorem State.countM_portOut (s : State) (res : Byte) : (s.countM res).portOut = s.portOut := rfl
@[simp] theorem State.countM_portIn (s : State) (res : Byte) : (s.countM res).portIn = s.portIn := rfl
@[simp] theorem State.countM_draws (s : State) (res : Byte) : (s.countM res).draws = s.draws := rfl
@[simp] theorem State.countM_irqs (s : State) (res : Byte) : (s.countM res).irqs = s.irqs := rfl
@[simp] theorem State.countM_choices (s : State) (res : Byte) : (s.countM res).choices = s.choices := rfl

/-! ### State.raiseUnimplemented -/

@[simp] theorem State.raiseUnimplemented_a (s : State) (op : Byte) : (s.raiseUnimplemented op).a = s.a := rfl
@[simp] theorem State.raiseUnimplemented_b (s : State) (op : Byte) : (s.raiseUnimplemented op).b = s.b := rfl
@[simp] theorem State.raiseUnimplemented_c (s : State) (op : Byte) : (s.raiseUnimplemented op).c = s.c := rfl
@[simp] theorem State.raiseUnimplemented_d (s : State) (op : Byte) : (s.raiseUnimplemented op).d = s.d := rfl
@[simp] theorem State.raiseUnimplemented_e (s : State) (op : Byte) : (s.raiseUnimplemented op).e = s.e := rfl
@[simp] theorem State.raiseUnimplemented_h (s : State) (op : Byte) : (s.raiseUnimplemented op).h = s.h := rfl
@[simp] theorem State.raiseUnimplemented_l (s : State) (op : Byte) : (s.raiseUnimplemented op).l = s.l := rfl
@[simp] theorem State.raiseUnimplemented_sp (s : State) (op : Byte) : (s.raiseUnimplemented op).sp = s.sp := rfl
@[simp] theorem State.raiseUnimplemented_pc (s : State) (op : Byte) : (s.raiseUnimplemented op).pc = s.pc := rfl
@[simp] theorem State.raiseUnimplemented_flags (s : State) (op : Byte) : (s.raiseUnimplemented op).flags = s.flags := rfl
@[simp] theorem State.raiseUnimplemented_inte (s : State) (op : Byte) : (s.raiseUnimplemented op).inte = s.inte := rfl
@[simp] theorem State.raiseUnimplemented_halted (s : State) (op : Byte) : (s.raiseUnimplemented op).halted = s.halted := rfl
@[simp] theorem State.raiseUnimplemented_fault (s : State) (op : Byte) : (s.raiseUnimplemented op).fault = true := rfl
@[simp] theorem State.raiseUnimplemented_record (s : State) (op : Byte) : (s.raiseUnimplemented op).record = ⟨.unimplementedInstruction, op, s.pc⟩ := rfl
@[simp] theorem State.raiseUnimplemented_mem (s : State) (op : Byte) : (s.raiseUnimplemented op).mem = s.mem := rfl
@[simp] theorem State.raiseUnimplemented_portOut (s : State) (op : Byte) : (s.raiseUnimplemented op).portOut = s.portOut := rfl
@[simp] theorem State.raiseUnimplemented_portIn (s : State) (op : Byte) : (s.raiseUnimplemented op).portIn = s.portIn := rfl
@[simp] theorem State.raiseUnimplemented_draws (s : State) (op : Byte) : (s.raiseUnimplemented op).draws = s.draws := rfl
@[simp] theorem State.raiseUnimplemented_irqs (s : State) (op : Byte) : (s.raiseUnimplemented op).irqs = s.irqs := rfl
@[simp] theorem State.raiseUnimplemented_choices (s : State) (op : Byte) : (s.raiseUnimplemented op).choices = s.choices := rfl

/-! ### State.acceptInterrupt -/

@[simp] theorem State.acceptInterrupt_a (s : State) (n : VectorIndex) : (s.acceptInterrupt n).a = s.a := by
  simp [State.acceptInterrupt]
@[simp] theorem State.acceptInterrupt_b (s : State) (n : VectorIndex) : (s.acceptInterrupt n).b = s.b := by
  simp [State.acceptInterrupt]
@[simp] theorem State.acceptInterrupt_c (s : State) (n : VectorIndex) : (s.acceptInterrupt n).c = s.c := by
  simp [State.acceptInterrupt]
@[simp] theorem State.acceptInterrupt_d (s : State) (n : VectorIndex) : (s.acceptInterrupt n).d = s.d := by
  simp [State.acceptInterrupt]
@[simp] theorem State.acceptInterrupt_e (s : State) (n : VectorIndex) : (s.acceptInterrupt n).e = s.e := by
  simp [State.acceptInterrupt]
@[simp] theorem State.acceptInterrupt_h (s : State) (n : VectorIndex) : (s.acceptInterrupt n).h = s.h := by
  simp [State.acceptInterrupt]
@[simp] theorem State.acceptInterrupt_l (s : State) (n : VectorIndex) : (s.acceptInterrupt n).l = s.l := by
  simp [State.acceptInterrupt]
@[simp] theorem State.acceptInterrupt_sp (s : State) (n : VectorIndex) : (s.acceptInterrupt n).sp = s.sp - 2 := by
  simp [State.acceptInterrupt]
@[simp] theorem State.acceptInterrupt_pc (s : State) (n : VectorIndex) : (s.acceptInterrupt n).pc = vectorAddress Config.hardware n := by
  simp [State.acceptInterrupt]
@[simp] theorem State.acceptInterrupt_flags (s : State) (n : VectorIndex) : (s.acceptInterrupt n).flags = s.flags := by
  simp [State.acceptInterrupt]
@[simp] theorem State.acceptInterrupt_inte (s : State) (n : VectorIndex) : (s.acceptInterrupt n).inte = false := by
  simp [State.acceptInterrupt]
@[simp] theorem State.acceptInterrupt_halted (s : State) (n : VectorIndex) : (s.acceptInterrupt n).halted = s.halted := by
  simp [State.acceptInterrupt]
@[simp] theorem State.acceptInterrupt_fault (s : State) (n : VectorIndex) : (s.acceptInterrupt n).fault = s.fault := by
  simp [State.acceptInterrupt]
@[simp] theorem State.acceptInterrupt_record (s : State) (n : VectorIndex) : (s.acceptInterrupt n).record = s.record := by
  simp [State.acceptInterrupt]
@[simp] theorem State.acceptInterrupt_mem (s : State) (n : VectorIndex) : (s.acceptInterrupt n).mem = (s.push16 s.pc).mem := by
  rw [State.acceptInterrupt, State.setInte_mem, State.callTo_mem]
@[simp] theorem State.acceptInterrupt_portOut (s : State) (n : VectorIndex) : (s.acceptInterrupt n).portOut = s.portOut := by
  simp [State.acceptInterrupt]
@[simp] theorem State.acceptInterrupt_portIn (s : State) (n : VectorIndex) : (s.acceptInterrupt n).portIn = s.portIn := by
  simp [State.acceptInterrupt]
@[simp] theorem State.acceptInterrupt_draws (s : State) (n : VectorIndex) : (s.acceptInterrupt n).draws = s.draws := by
  simp [State.acceptInterrupt]
@[simp] theorem State.acceptInterrupt_irqs (s : State) (n : VectorIndex) : (s.acceptInterrupt n).irqs = s.irqs := by
  simp [State.acceptInterrupt]
@[simp] theorem State.acceptInterrupt_choices (s : State) (n : VectorIndex) : (s.acceptInterrupt n).choices = s.choices := by
  simp [State.acceptInterrupt]

/-! ### State.delayRequests -/

@[simp] theorem State.delayRequests_a (s : State) (n : Nat) : (s.delayRequests n).a = s.a := rfl
@[simp] theorem State.delayRequests_b (s : State) (n : Nat) : (s.delayRequests n).b = s.b := rfl
@[simp] theorem State.delayRequests_c (s : State) (n : Nat) : (s.delayRequests n).c = s.c := rfl
@[simp] theorem State.delayRequests_d (s : State) (n : Nat) : (s.delayRequests n).d = s.d := rfl
@[simp] theorem State.delayRequests_e (s : State) (n : Nat) : (s.delayRequests n).e = s.e := rfl
@[simp] theorem State.delayRequests_h (s : State) (n : Nat) : (s.delayRequests n).h = s.h := rfl
@[simp] theorem State.delayRequests_l (s : State) (n : Nat) : (s.delayRequests n).l = s.l := rfl
@[simp] theorem State.delayRequests_sp (s : State) (n : Nat) : (s.delayRequests n).sp = s.sp := rfl
@[simp] theorem State.delayRequests_pc (s : State) (n : Nat) : (s.delayRequests n).pc = s.pc := rfl
@[simp] theorem State.delayRequests_flags (s : State) (n : Nat) : (s.delayRequests n).flags = s.flags := rfl
@[simp] theorem State.delayRequests_inte (s : State) (n : Nat) : (s.delayRequests n).inte = s.inte := rfl
@[simp] theorem State.delayRequests_halted (s : State) (n : Nat) : (s.delayRequests n).halted = s.halted := rfl
@[simp] theorem State.delayRequests_fault (s : State) (n : Nat) : (s.delayRequests n).fault = s.fault := rfl
@[simp] theorem State.delayRequests_record (s : State) (n : Nat) : (s.delayRequests n).record = s.record := rfl
@[simp] theorem State.delayRequests_mem (s : State) (n : Nat) : (s.delayRequests n).mem = s.mem := rfl
@[simp] theorem State.delayRequests_portOut (s : State) (n : Nat) : (s.delayRequests n).portOut = s.portOut := rfl
@[simp] theorem State.delayRequests_portIn (s : State) (n : Nat) : (s.delayRequests n).portIn = s.portIn := rfl
@[simp] theorem State.delayRequests_draws (s : State) (n : Nat) : (s.delayRequests n).draws = s.draws := rfl
@[simp] theorem State.delayRequests_irqs (s : State) (n : Nat) : (s.delayRequests n).irqs = List.replicate n none ++ s.irqs := rfl
@[simp] theorem State.delayRequests_choices (s : State) (n : Nat) : (s.delayRequests n).choices = s.choices := rfl

/-! ### State.afterPortRead -/

@[simp] theorem State.afterPortRead_a (s : State) : s.afterPortRead.a = s.a := rfl
@[simp] theorem State.afterPortRead_b (s : State) : s.afterPortRead.b = s.b := rfl
@[simp] theorem State.afterPortRead_c (s : State) : s.afterPortRead.c = s.c := rfl
@[simp] theorem State.afterPortRead_d (s : State) : s.afterPortRead.d = s.d := rfl
@[simp] theorem State.afterPortRead_e (s : State) : s.afterPortRead.e = s.e := rfl
@[simp] theorem State.afterPortRead_h (s : State) : s.afterPortRead.h = s.h := rfl
@[simp] theorem State.afterPortRead_l (s : State) : s.afterPortRead.l = s.l := rfl
@[simp] theorem State.afterPortRead_sp (s : State) : s.afterPortRead.sp = s.sp := rfl
@[simp] theorem State.afterPortRead_pc (s : State) : s.afterPortRead.pc = s.pc := rfl
@[simp] theorem State.afterPortRead_flags (s : State) : s.afterPortRead.flags = s.flags := rfl
@[simp] theorem State.afterPortRead_inte (s : State) : s.afterPortRead.inte = s.inte := rfl
@[simp] theorem State.afterPortRead_halted (s : State) : s.afterPortRead.halted = s.halted := rfl
@[simp] theorem State.afterPortRead_fault (s : State) : s.afterPortRead.fault = s.fault := rfl
@[simp] theorem State.afterPortRead_record (s : State) : s.afterPortRead.record = s.record := rfl
@[simp] theorem State.afterPortRead_mem (s : State) : s.afterPortRead.mem = s.mem := rfl
@[simp] theorem State.afterPortRead_portOut (s : State) : s.afterPortRead.portOut = s.portOut := rfl
@[simp] theorem State.afterPortRead_portIn (s : State) : s.afterPortRead.portIn = s.portIn.tail := rfl
@[simp] theorem State.afterPortRead_draws (s : State) : s.afterPortRead.draws = s.draws + 1 := rfl
@[simp] theorem State.afterPortRead_irqs (s : State) : s.afterPortRead.irqs = s.irqs := rfl
@[simp] theorem State.afterPortRead_choices (s : State) : s.afterPortRead.choices = s.choices := rfl

/-! ### State.portWrite -/

@[simp] theorem State.portWrite_a (s : State) (p v : Byte) : (s.portWrite p v).a = s.a := rfl
@[simp] theorem State.portWrite_b (s : State) (p v : Byte) : (s.portWrite p v).b = s.b := rfl
@[simp] theorem State.portWrite_c (s : State) (p v : Byte) : (s.portWrite p v).c = s.c := rfl
@[simp] theorem State.portWrite_d (s : State) (p v : Byte) : (s.portWrite p v).d = s.d := rfl
@[simp] theorem State.portWrite_e (s : State) (p v : Byte) : (s.portWrite p v).e = s.e := rfl
@[simp] theorem State.portWrite_h (s : State) (p v : Byte) : (s.portWrite p v).h = s.h := rfl
@[simp] theorem State.portWrite_l (s : State) (p v : Byte) : (s.portWrite p v).l = s.l := rfl
@[simp] theorem State.portWrite_sp (s : State) (p v : Byte) : (s.portWrite p v).sp = s.sp := rfl
@[simp] theorem State.portWrite_pc (s : State) (p v : Byte) : (s.portWrite p v).pc = s.pc := rfl
@[simp] theorem State.portWrite_flags (s : State) (p v : Byte) : (s.portWrite p v).flags = s.flags := rfl
@[simp] theorem State.portWrite_inte (s : State) (p v : Byte) : (s.portWrite p v).inte = s.inte := rfl
@[simp] theorem State.portWrite_halted (s : State) (p v : Byte) : (s.portWrite p v).halted = s.halted := rfl
@[simp] theorem State.portWrite_fault (s : State) (p v : Byte) : (s.portWrite p v).fault = s.fault := rfl
@[simp] theorem State.portWrite_record (s : State) (p v : Byte) : (s.portWrite p v).record = s.record := rfl
@[simp] theorem State.portWrite_mem (s : State) (p v : Byte) : (s.portWrite p v).mem = s.mem := rfl
@[simp] theorem State.portWrite_portOut (s : State) (p v : Byte) : (s.portWrite p v).portOut = s.portOut ++ [(p, v)] := rfl
@[simp] theorem State.portWrite_portIn (s : State) (p v : Byte) : (s.portWrite p v).portIn = s.portIn := rfl
@[simp] theorem State.portWrite_draws (s : State) (p v : Byte) : (s.portWrite p v).draws = s.draws := rfl
@[simp] theorem State.portWrite_irqs (s : State) (p v : Byte) : (s.portWrite p v).irqs = s.irqs := rfl
@[simp] theorem State.portWrite_choices (s : State) (p v : Byte) : (s.portWrite p v).choices = s.choices := rfl

/-! ### State.setReg -/

@[simp] theorem State.setReg_sp (s : State) (r : Reg) (v : Byte) : (s.setReg r v).sp = s.sp := by cases r <;> rfl
@[simp] theorem State.setReg_pc (s : State) (r : Reg) (v : Byte) : (s.setReg r v).pc = s.pc := by cases r <;> rfl
@[simp] theorem State.setReg_flags (s : State) (r : Reg) (v : Byte) : (s.setReg r v).flags = s.flags := by cases r <;> rfl
@[simp] theorem State.setReg_inte (s : State) (r : Reg) (v : Byte) : (s.setReg r v).inte = s.inte := by cases r <;> rfl
@[simp] theorem State.setReg_halted (s : State) (r : Reg) (v : Byte) : (s.setReg r v).halted = s.halted := by cases r <;> rfl
@[simp] theorem State.setReg_fault (s : State) (r : Reg) (v : Byte) : (s.setReg r v).fault = s.fault := by cases r <;> rfl
@[simp] theorem State.setReg_record (s : State) (r : Reg) (v : Byte) : (s.setReg r v).record = s.record := by cases r <;> rfl
@[simp] theorem State.setReg_mem (s : State) (r : Reg) (v : Byte) : (s.setReg r v).mem = s.mem := by cases r <;> rfl
@[simp] theorem State.setReg_portOut (s : State) (r : Reg) (v : Byte) : (s.setReg r v).portOut = s.portOut := by cases r <;> rfl
@[simp] theorem State.setReg_portIn (s : State) (r : Reg) (v : Byte) : (s.setReg r v).portIn = s.portIn := by cases r <;> rfl
@[simp] theorem State.setReg_draws (s : State) (r : Reg) (v : Byte) : (s.setReg r v).draws = s.draws := by cases r <;> rfl
@[simp] theorem State.setReg_irqs (s : State) (r : Reg) (v : Byte) : (s.setReg r v).irqs = s.irqs := by cases r <;> rfl
@[simp] theorem State.setReg_choices (s : State) (r : Reg) (v : Byte) : (s.setReg r v).choices = s.choices := by cases r <;> rfl

/-! ### State.countReg -/

@[simp] theorem State.countReg_sp (s : State) (r : Reg) (v : Byte) : (s.countReg r v).sp = s.sp := by cases r <;> rfl
@[simp] theorem State.countReg_pc (s : State) (r : Reg) (v : Byte) : (s.countReg r v).pc = s.pc := by cases r <;> rfl
@[simp] theorem State.countReg_inte (s : State) (r : Reg) (v : Byte) : (s.countReg r v).inte = s.inte := by cases r <;> rfl
@[simp] theorem State.countReg_halted (s : State) (r : Reg) (v : Byte) : (s.countReg r v).halted = s.halted := by cases r <;> rfl
@[simp] theorem State.countReg_fault (s : State) (r : Reg) (v : Byte) : (s.countReg r v).fault = s.fault := by cases r <;> rfl
@[simp] theorem State.countReg_record (s : State) (r : Reg) (v : Byte) : (s.countReg r v).record = s.record := by cases r <;> rfl
@[simp] theorem State.countReg_mem (s : State) (r : Reg) (v : Byte) : (s.countReg r v).mem = s.mem := by cases r <;> rfl
@[simp] theorem State.countReg_portOut (s : State) (r : Reg) (v : Byte) : (s.countReg r v).portOut = s.portOut := by cases r <;> rfl
@[simp] theorem State.countReg_portIn (s : State) (r : Reg) (v : Byte) : (s.countReg r v).portIn = s.portIn := by cases r <;> rfl
@[simp] theorem State.countReg_draws (s : State) (r : Reg) (v : Byte) : (s.countReg r v).draws = s.draws := by cases r <;> rfl
@[simp] theorem State.countReg_irqs (s : State) (r : Reg) (v : Byte) : (s.countReg r v).irqs = s.irqs := by cases r <;> rfl
@[simp] theorem State.countReg_choices (s : State) (r : Reg) (v : Byte) : (s.countReg r v).choices = s.choices := by cases r <;> rfl

/-! ### State.setPair -/

@[simp] theorem State.setPair_a (s : State) (p : Pair) (w : Word) : (s.setPair p w).a = s.a := by cases p <;> rfl
@[simp] theorem State.setPair_pc (s : State) (p : Pair) (w : Word) : (s.setPair p w).pc = s.pc := by cases p <;> rfl
@[simp] theorem State.setPair_flags (s : State) (p : Pair) (w : Word) : (s.setPair p w).flags = s.flags := by cases p <;> rfl
@[simp] theorem State.setPair_inte (s : State) (p : Pair) (w : Word) : (s.setPair p w).inte = s.inte := by cases p <;> rfl
@[simp] theorem State.setPair_halted (s : State) (p : Pair) (w : Word) : (s.setPair p w).halted = s.halted := by cases p <;> rfl
@[simp] theorem State.setPair_fault (s : State) (p : Pair) (w : Word) : (s.setPair p w).fault = s.fault := by cases p <;> rfl
@[simp] theorem State.setPair_record (s : State) (p : Pair) (w : Word) : (s.setPair p w).record = s.record := by cases p <;> rfl
@[simp] theorem State.setPair_mem (s : State) (p : Pair) (w : Word) : (s.setPair p w).mem = s.mem := by cases p <;> rfl
@[simp] theorem State.setPair_portOut (s : State) (p : Pair) (w : Word) : (s.setPair p w).portOut = s.portOut := by cases p <;> rfl
@[simp] theorem State.setPair_portIn (s : State) (p : Pair) (w : Word) : (s.setPair p w).portIn = s.portIn := by cases p <;> rfl
@[simp] theorem State.setPair_draws (s : State) (p : Pair) (w : Word) : (s.setPair p w).draws = s.draws := by cases p <;> rfl
@[simp] theorem State.setPair_irqs (s : State) (p : Pair) (w : Word) : (s.setPair p w).irqs = s.irqs := by cases p <;> rfl
@[simp] theorem State.setPair_choices (s : State) (p : Pair) (w : Word) : (s.setPair p w).choices = s.choices := by cases p <;> rfl

/-! ### State.setStackPair -/

@[simp] theorem State.setStackPair_a (s : State) (p : StackPair) (w : Word) : (s.setStackPair p w).a = s.a := by cases p <;> rfl
@[simp] theorem State.setStackPair_sp (s : State) (p : StackPair) (w : Word) : (s.setStackPair p w).sp = s.sp := by cases p <;> rfl
@[simp] theorem State.setStackPair_pc (s : State) (p : StackPair) (w : Word) : (s.setStackPair p w).pc = s.pc := by cases p <;> rfl
@[simp] theorem State.setStackPair_flags (s : State) (p : StackPair) (w : Word) : (s.setStackPair p w).flags = s.flags := by cases p <;> rfl
@[simp] theorem State.setStackPair_inte (s : State) (p : StackPair) (w : Word) : (s.setStackPair p w).inte = s.inte := by cases p <;> rfl
@[simp] theorem State.setStackPair_halted (s : State) (p : StackPair) (w : Word) : (s.setStackPair p w).halted = s.halted := by cases p <;> rfl
@[simp] theorem State.setStackPair_fault (s : State) (p : StackPair) (w : Word) : (s.setStackPair p w).fault = s.fault := by cases p <;> rfl
@[simp] theorem State.setStackPair_record (s : State) (p : StackPair) (w : Word) : (s.setStackPair p w).record = s.record := by cases p <;> rfl
@[simp] theorem State.setStackPair_mem (s : State) (p : StackPair) (w : Word) : (s.setStackPair p w).mem = s.mem := by cases p <;> rfl
@[simp] theorem State.setStackPair_portOut (s : State) (p : StackPair) (w : Word) : (s.setStackPair p w).portOut = s.portOut := by cases p <;> rfl
@[simp] theorem State.setStackPair_portIn (s : State) (p : StackPair) (w : Word) : (s.setStackPair p w).portIn = s.portIn := by cases p <;> rfl
@[simp] theorem State.setStackPair_draws (s : State) (p : StackPair) (w : Word) : (s.setStackPair p w).draws = s.draws := by cases p <;> rfl
@[simp] theorem State.setStackPair_irqs (s : State) (p : StackPair) (w : Word) : (s.setStackPair p w).irqs = s.irqs := by cases p <;> rfl
@[simp] theorem State.setStackPair_choices (s : State) (p : StackPair) (w : Word) : (s.setStackPair p w).choices = s.choices := by cases p <;> rfl

/-! ### State.afterRequest -/

@[simp] theorem State.afterRequest_a (s : State) : s.afterRequest.a = s.a := by
  unfold State.afterRequest; split <;> rfl
@[simp] theorem State.afterRequest_b (s : State) : s.afterRequest.b = s.b := by
  unfold State.afterRequest; split <;> rfl
@[simp] theorem State.afterRequest_c (s : State) : s.afterRequest.c = s.c := by
  unfold State.afterRequest; split <;> rfl
@[simp] theorem State.afterRequest_d (s : State) : s.afterRequest.d = s.d := by
  unfold State.afterRequest; split <;> rfl
@[simp] theorem State.afterRequest_e (s : State) : s.afterRequest.e = s.e := by
  unfold State.afterRequest; split <;> rfl
@[simp] theorem State.afterRequest_h (s : State) : s.afterRequest.h = s.h := by
  unfold State.afterRequest; split <;> rfl
@[simp] theorem State.afterRequest_l (s : State) : s.afterRequest.l = s.l := by
  unfold State.afterRequest; split <;> rfl
@[simp] theorem State.afterRequest_sp (s : State) : s.afterRequest.sp = s.sp := by
  unfold State.afterRequest; split <;> rfl
@[simp] theorem State.afterRequest_pc (s : State) : s.afterRequest.pc = s.pc := by
  unfold State.afterRequest; split <;> rfl
@[simp] theorem State.afterRequest_flags (s : State) : s.afterRequest.flags = s.flags := by
  unfold State.afterRequest; split <;> rfl
@[simp] theorem State.afterRequest_inte (s : State) : s.afterRequest.inte = s.inte := by
  unfold State.afterRequest; split <;> rfl
@[simp] theorem State.afterRequest_halted (s : State) : s.afterRequest.halted = s.halted := by
  unfold State.afterRequest; split <;> rfl
@[simp] theorem State.afterRequest_fault (s : State) : s.afterRequest.fault = s.fault := by
  unfold State.afterRequest; split <;> rfl
@[simp] theorem State.afterRequest_record (s : State) : s.afterRequest.record = s.record := by
  unfold State.afterRequest; split <;> rfl
@[simp] theorem State.afterRequest_mem (s : State) : s.afterRequest.mem = s.mem := by
  unfold State.afterRequest; split <;> rfl
@[simp] theorem State.afterRequest_portOut (s : State) : s.afterRequest.portOut = s.portOut := by
  unfold State.afterRequest; split <;> rfl
@[simp] theorem State.afterRequest_portIn (s : State) : s.afterRequest.portIn = s.portIn := by
  unfold State.afterRequest; split <;> rfl
@[simp] theorem State.afterRequest_draws (s : State) : s.afterRequest.draws = s.draws := by
  unfold State.afterRequest; split <;> rfl
@[simp] theorem State.afterRequest_irqs (s : State) :
    s.afterRequest.irqs = if s.inte then s.irqs.tail else s.irqs := by
  unfold State.afterRequest; split <;> rfl
@[simp] theorem State.afterRequest_choices (s : State) :
    s.afterRequest.choices = if s.inte then s.choices + 1 else s.choices := by
  unfold State.afterRequest; split <;> rfl

end Sys2Proof.Machine
end

