-- ==== Sys2Proof/Laws/Memory.lean ====
section
/-! SUPPORT. What the memory operations do: a read after a write, and that every operation keeps the canonical form. -/

namespace Sys2Proof.Machine

/-! ### One byte -/

theorem Memory.read_erase (m : Memory) (x y : Nat) :
    Memory.read (Memory.erase m x) y = if y = x then Memory.blank else Memory.read m y := by
  induction m with
  | nil => simp [Memory.erase, Memory.read]
  | cons cell m ih =>
    obtain ⟨k, v⟩ := cell
    simp only [Memory.erase, List.filter_cons] at ih ⊢
    by_cases hk : k = x
    · subst hk
      simp only [bne_self_eq_false, Bool.false_eq_true, if_false, ih, Memory.read]
      split <;> simp_all [eq_comm]
    · have : (k != x) = true := by simp [hk]
      simp only [this, if_true, Memory.read, ih]
      split
      · subst_vars
        simp [hk]
      · rfl

theorem Memory.read_insert (m : Memory) (x y : Nat) (v : Byte) (h : Memory.read m x = Memory.blank)
    (hx : ∀ cell ∈ m, cell.1 ≠ x) :
    Memory.read (Memory.insert m x v) y = if y = x then v else Memory.read m y := by
  induction m with
  | nil => simp [Memory.insert, Memory.read, eq_comm]
  | cons cell m ih =>
    obtain ⟨k, u⟩ := cell
    have hk : k ≠ x := hx (k, u) (by simp)
    simp only [Memory.insert]
    split
    · simp [Memory.read, eq_comm]
    · have h' : Memory.read m x = Memory.blank := by simpa [Memory.read, hk] using h
      simp only [Memory.read, ih h' fun cell hc => hx cell (by simp [hc])]
      by_cases hy : k = y
      · subst hy
        simp [hk]
      · simp [hy]

theorem Memory.not_listed_erase (m : Memory) (x : Nat) : ∀ cell ∈ Memory.erase m x, cell.1 ≠ x := by
  simp [Memory.erase]

/-- A read after a write: the byte written at that address, every other address as before. It holds of every list,
canonical or not. -/
theorem Memory.read_write (m : Memory) (x y : Nat) (v : Byte) :
    Memory.read (Memory.write m x v) y = if y = x then v else Memory.read m y := by
  unfold Memory.write
  split
  · subst_vars
    exact Memory.read_erase m x y
  · rw [Memory.read_insert _ _ _ _ (by simp [Memory.read_erase]) (Memory.not_listed_erase m x), Memory.read_erase]
    split <;> simp_all

@[simp] theorem State.readByte_writeByte_same (s : State) (x : Word) (v : Byte) :
    (s.writeByte x v).readByte x = v := by
  simp [State.readByte, Memory.read_write]

theorem State.readByte_writeByte_other (s : State) {x y : Word} (v : Byte) (h : y ≠ x) :
    (s.writeByte x v).readByte y = s.readByte y := by
  have : y.toNat ≠ x.toNat := fun e => h (BitVec.eq_of_toNat_eq e)
  simp [State.readByte, Memory.read_write, this]

theorem State.readByte_writeByte (s : State) (x y : Word) (v : Byte) :
    (s.writeByte x v).readByte y = if y = x then v else s.readByte y := by
  split
  · subst_vars
    simp
  · exact s.readByte_writeByte_other v ‹_›

/-- A byte read depends on memory alone. -/
theorem State.readByte_congr {s t : State} (h : t.mem = s.mem) (x : Word) : t.readByte x = s.readByte x := by
  simp [State.readByte, h]

/-! ### The canonical form -/

theorem Memory.wfFrom_mono {m : Memory} {low low' : Nat} (h : low' ≤ low) (hw : Memory.wfFrom low m = true) :
    Memory.wfFrom low' m = true := by
  cases m with
  | nil => rfl
  | cons cell m =>
    simp only [Memory.wfFrom, Bool.and_eq_true, decide_eq_true_eq] at hw ⊢
    exact ⟨⟨⟨by omega, hw.1.1.2⟩, hw.1.2⟩, hw.2⟩

theorem Memory.wfFrom_erase (m : Memory) (x low : Nat) (h : Memory.wfFrom low m = true) :
    Memory.wfFrom low (Memory.erase m x) = true := by
  induction m generalizing low with
  | nil => rfl
  | cons cell m ih =>
    simp only [Memory.wfFrom, Bool.and_eq_true, decide_eq_true_eq] at h
    have hm := ih _ h.2
    simp only [Memory.erase, List.filter_cons] at hm ⊢
    split
    · simp only [Memory.wfFrom, Bool.and_eq_true, decide_eq_true_eq]
      exact ⟨h.1, hm⟩
    · exact Memory.wfFrom_mono (by omega) hm

theorem Memory.wfFrom_insert (m : Memory) (x low : Nat) (v : Byte) (h : Memory.wfFrom low m = true) (hl : low ≤ x)
    (hx : x < 65536) (hv : v ≠ Memory.blank) (hn : ∀ cell ∈ m, cell.1 ≠ x) :
    Memory.wfFrom low (Memory.insert m x v) = true := by
  induction m generalizing low with
  | nil => simp [Memory.insert, Memory.wfFrom, hl, hx, hv]
  | cons cell m ih =>
    obtain ⟨k, u⟩ := cell
    have hk : k ≠ x := hn (k, u) (by simp)
    simp only [Memory.wfFrom, Bool.and_eq_true, decide_eq_true_eq] at h
    simp only [Memory.insert]
    split
    · simp only [Memory.wfFrom, Bool.and_eq_true, decide_eq_true_eq]
      exact ⟨⟨⟨hl, hx⟩, hv⟩, ⟨⟨⟨by omega, h.1.1.2⟩, h.1.2⟩, h.2⟩⟩
    · simp only [Memory.wfFrom, Bool.and_eq_true, decide_eq_true_eq]
      exact ⟨h.1, ih _ h.2 (by omega) fun cell hc => hn cell (by simp [hc])⟩

/-- A write below the end of memory keeps the canonical form. -/
theorem Memory.wf_write {m : Memory} (h : Memory.wf m = true) {x : Nat} (hx : x < 65536) (v : Byte) :
    Memory.wf (Memory.write m x v) = true := by
  have he := Memory.wfFrom_erase m x 0 h
  unfold Memory.write
  split
  · exact he
  · exact Memory.wfFrom_insert _ x 0 v he (by omega) hx ‹_› (Memory.not_listed_erase m x)

theorem Memory.wf_nil : Memory.wf [] = true := rfl

theorem Memory.wf_writeList {m : Memory} (h : Memory.wf m = true) (image : List Byte) (base : Nat)
    (hb : base + image.length ≤ 65536) : Memory.wf (Memory.writeList m base image) = true := by
  induction image generalizing m base with
  | nil => exact h
  | cons v vs ih =>
    simp only [List.length_cons] at hb
    exact ih (Memory.wf_write h (by omega) v) (base + 1) (by omega)

theorem State.writeByte_wf {s : State} (h : Memory.wf s.mem = true) (x : Word) (v : Byte) :
    Memory.wf (s.writeByte x v).mem = true :=
  Memory.wf_write h x.isLt v

theorem State.writeWord_wf {s : State} (h : Memory.wf s.mem = true) (x w : Word) :
    Memory.wf (s.writeWord x w).mem = true :=
  State.writeByte_wf (State.writeByte_wf h _ _) _ _

theorem State.push16_wf {s : State} (h : Memory.wf s.mem = true) (w : Word) : Memory.wf (s.push16 w).mem = true := by
  rw [State.push16_mem]
  exact State.writeByte_wf (State.writeByte_wf h _ _) _ _

theorem State.callTo_wf {s : State} (h : Memory.wf s.mem = true) (w : Word) : Memory.wf (s.callTo w).mem = true := by
  rw [State.callTo_mem]
  exact State.push16_wf h _

theorem State.acceptInterrupt_wf {s : State} (h : Memory.wf s.mem = true) (n : VectorIndex) :
    Memory.wf (s.acceptInterrupt n).mem = true := by
  rw [State.acceptInterrupt_mem]
  exact State.push16_wf h _

/-- The load of an image keeps the canonical form. -/
theorem State.load_wf {s t : State} (h : Memory.wf s.mem = true) {base : Word} {image : List Byte}
    (hl : s.load base image = some t) : Memory.wf t.mem = true := by
  unfold State.load at hl
  split at hl
  · cases hl
    exact Memory.wf_writeList h image _ ‹_›
  · cases hl

/-! ### Two bytes -/

theorem Word.add_one_ne (x : Word) : x + 1 ≠ x := by bv_omega

theorem Word.sub_one_ne_sub_two (x : Word) : x - 1 ≠ x - 2 := by bv_omega

/-- Every byte after a two-byte store: the low byte at the address, the high byte at the next, all else as before. -/
theorem State.readByte_writeWord (s : State) (x w y : Word) :
    (s.writeWord x w).readByte y =
      if y = x then loByte w else if y = x + 1 then hiByte w else s.readByte y := by
  have hne := Word.add_one_ne x
  unfold State.writeWord
  rw [State.readByte_writeByte, State.readByte_writeByte]
  by_cases h : y = x
  · rw [if_neg (by rw [h]; exact hne.symm), if_pos h, if_pos h]
  · rw [if_neg h, if_neg h]

/-- Every byte after a push: the high byte at SP - 1, the low byte at SP - 2, all else as before. -/
theorem State.readByte_push16 (s : State) (w y : Word) :
    (s.push16 w).readByte y =
      if y = s.sp - 1 then hiByte w else if y = s.sp - 2 then loByte w else s.readByte y := by
  have hne := Word.sub_one_ne_sub_two s.sp
  rw [State.readByte_congr (State.push16_mem s w), State.readByte_writeByte, State.readByte_writeByte]
  by_cases h : y = s.sp - 1
  · rw [if_neg (by rw [h]; exact hne), if_pos h, if_pos h]
  · rw [if_neg h, if_neg h]

theorem State.readByte_callTo (s : State) (w y : Word) :
    (s.callTo w).readByte y =
      if y = s.sp - 1 then hiByte s.pc else if y = s.sp - 2 then loByte s.pc else s.readByte y := by
  rw [State.readByte_congr (State.callTo_mem s w), State.readByte_push16]

theorem State.readByte_acceptInterrupt (s : State) (n : VectorIndex) (y : Word) :
    (s.acceptInterrupt n).readByte y =
      if y = s.sp - 1 then hiByte s.pc else if y = s.sp - 2 then loByte s.pc else s.readByte y := by
  rw [State.readByte_congr (State.acceptInterrupt_mem s n), State.readByte_push16]

/-- Reading an image back after it is written. -/
theorem Memory.read_writeList (m : Memory) (image : List Byte) (base y : Nat) :
    Memory.read (Memory.writeList m base image) y =
      if h : base ≤ y ∧ y - base < image.length then image[y - base] else Memory.read m y := by
  induction image generalizing m base with
  | nil => simp [Memory.writeList]
  | cons v vs ih =>
    rw [Memory.writeList, ih, Memory.read_write]
    by_cases hy : y = base
    · subst hy
      simp
    · by_cases hb : base + 1 ≤ y ∧ y - (base + 1) < vs.length
      · have h2 : base ≤ y ∧ y - base < (v :: vs).length := by
          simp only [List.length_cons]
          omega
        simp only [hb, h2, and_self, dite_true]
        have h3 : y - base = (y - (base + 1)) + 1 := by omega
        simp [h3]
      · have h2 : ¬(base ≤ y ∧ y - base < (v :: vs).length) := by
          simp only [List.length_cons]
          omega
        rw [dif_neg hb, dif_neg h2, if_neg hy]

end Sys2Proof.Machine
end

