-- ==== Sys2Proof/Laws/Ops.lean ====
section
/-! SUPPORT. What the shared operations do: registers and pairs, the stack engine, the flag unit, conditional
transfers. -/

namespace Sys2Proof.Machine

/-! ### Registers -/

theorem State.getReg_setReg (s : State) (r q : Reg) (v : Byte) :
    (s.setReg r v).getReg q = if q = r then v else s.getReg q := by
  cases r <;> cases q <;> rfl

/-- A register read depends on the seven register fields alone. -/
theorem State.getReg_congr {s t : State} (ha : t.a = s.a) (hb : t.b = s.b) (hc : t.c = s.c) (hd : t.d = s.d)
    (he : t.e = s.e) (hh : t.h = s.h) (hl : t.l = s.l) (r : Reg) : t.getReg r = s.getReg r := by
  cases r <;> simpa [State.getReg]

@[simp] theorem State.getReg_advance (s : State) (n : Nat) (r : Reg) : (s.advance n).getReg r = s.getReg r := by
  cases r <;> rfl
@[simp] theorem State.getReg_setPC (s : State) (w : Word) (r : Reg) : (s.setPC w).getReg r = s.getReg r := by
  cases r <;> rfl
@[simp] theorem State.getReg_setSP (s : State) (w : Word) (r : Reg) : (s.setSP w).getReg r = s.getReg r := by
  cases r <;> rfl
@[simp] theorem State.getReg_setFlags (s : State) (f : Flags) (r : Reg) : (s.setFlags f).getReg r = s.getReg r := by
  cases r <;> rfl
@[simp] theorem State.getReg_setInte (s : State) (v : Bool) (r : Reg) : (s.setInte v).getReg r = s.getReg r := by
  cases r <;> rfl
@[simp] theorem State.getReg_writeByte (s : State) (x : Word) (v : Byte) (r : Reg) :
    (s.writeByte x v).getReg r = s.getReg r := by
  cases r <;> rfl
@[simp] theorem State.getReg_writeWord (s : State) (x w : Word) (r : Reg) :
    (s.writeWord x w).getReg r = s.getReg r := by
  simp [State.writeWord]
@[simp] theorem State.getReg_push16 (s : State) (w : Word) (r : Reg) : (s.push16 w).getReg r = s.getReg r := by
  simp [State.push16]
@[simp] theorem State.getReg_callTo (s : State) (w : Word) (r : Reg) : (s.callTo w).getReg r = s.getReg r := by
  simp [State.callTo]
@[simp] theorem State.getReg_dropTop (s : State) (r : Reg) : s.dropTop.getReg r = s.getReg r := by
  simp [State.dropTop]
@[simp] theorem State.getReg_returnFromCall (s : State) (r : Reg) : s.returnFromCall.getReg r = s.getReg r := by
  simp [State.returnFromCall]
@[simp] theorem State.getReg_acceptInterrupt (s : State) (n : VectorIndex) (r : Reg) :
    (s.acceptInterrupt n).getReg r = s.getReg r := by
  simp [State.acceptInterrupt]
@[simp] theorem State.getReg_raiseUnimplemented (s : State) (op : Byte) (r : Reg) :
    (s.raiseUnimplemented op).getReg r = s.getReg r := by
  cases r <;> rfl
@[simp] theorem State.getReg_afterPortRead (s : State) (r : Reg) : s.afterPortRead.getReg r = s.getReg r := by
  cases r <;> rfl
@[simp] theorem State.getReg_portWrite (s : State) (p v : Byte) (r : Reg) :
    (s.portWrite p v).getReg r = s.getReg r := by
  cases r <;> rfl

/-- A pair reads as the value written to it (00_scope.md R7). -/
theorem State.getPair_setPair (s : State) (p : Pair) (w : Word) : (s.setPair p w).getPair p = w := by
  cases p <;> simp [State.getPair, State.setPair, State.bc, State.de, State.hl]

theorem State.getStackPair_setStackPair (s : State) (p : StackPair) (w : Word) :
    (s.setStackPair p w).getStackPair p = w := by
  cases p <;> simp [State.getStackPair, State.setStackPair, State.bc, State.de, State.hl]

/-- A pair as a number: the first register named is the high byte (10_state.md R21). -/
theorem State.hl_toNat (s : State) : s.hl.toNat = s.h.toNat * 256 + s.l.toNat := joinBytes_toNat _ _
theorem State.bc_toNat (s : State) : s.bc.toNat = s.b.toNat * 256 + s.c.toNat := joinBytes_toNat _ _
theorem State.de_toNat (s : State) : s.de.toNat = s.d.toNat * 256 + s.e.toNat := joinBytes_toNat _ _

/-! ### The stack engine -/

/-- What was pushed is what a pop returns (44_control_transfer.md R200, R201). -/
theorem State.popValue_push16 (s : State) (w : Word) : (s.push16 w).popValue = w := by
  have h1 : s.sp - 2 + 1 = s.sp - 1 := by bv_omega
  rw [State.popValue, State.readWord, State.push16_sp, State.readByte_push16, State.readByte_push16, h1, if_pos rfl,
    if_neg (Word.sub_one_ne_sub_two s.sp).symm, if_pos rfl, joinBytes_hiByte_loByte]

/-- A pop leaves SP where it was before the push. -/
theorem State.sp_dropTop_push16 (s : State) (w : Word) : (s.push16 w).dropTop.sp = s.sp := by
  simp only [State.dropTop_sp, State.push16_sp]
  bv_omega

/-! ### The flag unit -/

@[simp] theorem Flags.zsp_z (f : Flags) (res : Byte) : (f.zsp res).z = (res == 0) := rfl
@[simp] theorem Flags.zsp_s (f : Flags) (res : Byte) : (f.zsp res).s = res[7] := rfl
@[simp] theorem Flags.zsp_p (f : Flags) (res : Byte) : (f.zsp res).p = parityEven res := rfl
@[simp] theorem Flags.zsp_cy (f : Flags) (res : Byte) : (f.zsp res).cy = f.cy := rfl
@[simp] theorem Flags.zsp_ac (f : Flags) (res : Byte) : (f.zsp res).ac = f.ac := rfl

theorem add8_toNat (a v : Byte) (cin : Bool) : (add8 a v cin).toNat = (a.toNat + v.toNat + cin.toNat) % 256 := by
  simp [add8, sum8]

/-- The byte of a subtraction is the true difference reduced mod 256 (R142). -/
theorem sub8_toNat (a v : Byte) (bin : Bool) :
    ((sub8 a v bin).toNat : Int) = ((a.toNat : Int) - v.toNat - bin.toNat) % 256 := by
  simp [sub8, diff8, BitVec.toNat_ofInt]
  omega

@[simp] theorem Flags.afterAdd_z (f : Flags) (a v : Byte) (cin : Bool) :
    (f.afterAdd a v cin).z = (add8 a v cin == 0) := rfl
@[simp] theorem Flags.afterAdd_s (f : Flags) (a v : Byte) (cin : Bool) :
    (f.afterAdd a v cin).s = (add8 a v cin)[7] := rfl
@[simp] theorem Flags.afterAdd_p (f : Flags) (a v : Byte) (cin : Bool) :
    (f.afterAdd a v cin).p = parityEven (add8 a v cin) := rfl
@[simp] theorem Flags.afterAdd_cy (f : Flags) (a v : Byte) (cin : Bool) :
    (f.afterAdd a v cin).cy = decide (sum8 a v cin > 0xFF) := rfl
@[simp] theorem Flags.afterAdd_ac (f : Flags) (a v : Byte) (cin : Bool) : (f.afterAdd a v cin).ac = f.ac := rfl

@[simp] theorem Flags.afterSub_z (cfg : Config) (f : Flags) (a v : Byte) (bin : Bool) :
    (f.afterSub cfg a v bin).z = (sub8 a v bin == 0) := rfl
@[simp] theorem Flags.afterSub_s (cfg : Config) (f : Flags) (a v : Byte) (bin : Bool) :
    (f.afterSub cfg a v bin).s = (sub8 a v bin)[7] := rfl
@[simp] theorem Flags.afterSub_p (cfg : Config) (f : Flags) (a v : Byte) (bin : Bool) :
    (f.afterSub cfg a v bin).p = parityEven (sub8 a v bin) := rfl
@[simp] theorem Flags.afterSub_cy (f : Flags) (a v : Byte) (bin : Bool) :
    (f.afterSub Config.hardware a v bin).cy = decide (diff8 a v bin < 0) := by
  simp [Flags.afterSub]
@[simp] theorem Flags.afterSub_ac (cfg : Config) (f : Flags) (a v : Byte) (bin : Bool) :
    (f.afterSub cfg a v bin).ac = f.ac := rfl

@[simp] theorem Flags.borrowIn_hardware (f : Flags) : f.borrowIn Config.hardware = f.cy := by
  simp [Flags.borrowIn]

@[simp] theorem Flags.afterLogic_hardware (f : Flags) (res : Byte) :
    f.afterLogic Config.hardware res = f.zsp res := rfl

@[simp] theorem Flags.withCarry_z (f : Flags) (cy : Bool) : (f.withCarry cy).z = f.z := rfl
@[simp] theorem Flags.withCarry_s (f : Flags) (cy : Bool) : (f.withCarry cy).s = f.s := rfl
@[simp] theorem Flags.withCarry_p (f : Flags) (cy : Bool) : (f.withCarry cy).p = f.p := rfl
@[simp] theorem Flags.withCarry_cy (f : Flags) (cy : Bool) : (f.withCarry cy).cy = cy := rfl
@[simp] theorem Flags.withCarry_ac (f : Flags) (cy : Bool) : (f.withCarry cy).ac = f.ac := rfl

/-! ### Conditional transfers (44_control_transfer.md R233) -/

theorem State.jumpIf_true {s : State} {cond : Cond} (h : s.flags.cond cond = true) (w : Word) :
    s.jumpIf cond w = s.setPC w := by
  simp [State.jumpIf, h]
theorem State.jumpIf_false {s : State} {cond : Cond} (h : s.flags.cond cond = false) (w : Word) :
    s.jumpIf cond w = s := by
  simp [State.jumpIf, h]
theorem State.callIf_true {s : State} {cond : Cond} (h : s.flags.cond cond = true) (w : Word) :
    s.callIf cond w = s.callTo w := by
  simp [State.callIf, h]
theorem State.callIf_false {s : State} {cond : Cond} (h : s.flags.cond cond = false) (w : Word) :
    s.callIf cond w = s := by
  simp [State.callIf, h]
theorem State.returnIf_true {s : State} {cond : Cond} (h : s.flags.cond cond = true) :
    s.returnIf cond = s.returnFromCall := by
  simp [State.returnIf, h]
theorem State.returnIf_false {s : State} {cond : Cond} (h : s.flags.cond cond = false) : s.returnIf cond = s := by
  simp [State.returnIf, h]

/-! ### The interrupt source (60_exceptions.md R314 to R317) -/

@[simp] theorem vectorAddress_toNat (n : VectorIndex) : (vectorAddress Config.hardware n).toNat = 8 * n.val := by
  have h : n.val < 8 := n.isLt
  simp [vectorAddress]
  omega

/-- The source's next choice is the first listed, else the free value. -/
@[simp] theorem State.nextChoice_nil {s : State} (h : s.irqs = []) :
    s.nextChoice = Config.interruptChoice s.choices := by
  simp [State.nextChoice, h]
@[simp] theorem State.nextChoice_cons {s : State} {choice : Option VectorIndex} {later : List (Option VectorIndex)}
    (h : s.irqs = choice :: later) : s.nextChoice = choice := by
  simp [State.nextChoice, h]

/-- A request takes INTE and the source's choice. -/
theorem State.request_eq_some_iff {s : State} {n : VectorIndex} :
    s.request = some n ↔ s.inte = true ∧ s.nextChoice = some n := by
  simp [State.request]

/-- EI's delay is none on this hardware (46_misc.md R276). -/
@[simp] theorem State.delayRequests_hardware (s : State) : s.delayRequests Config.hardware.eiDelay = s := rfl

end Sys2Proof.Machine
end

