-- ==== Sys2Proof/Laws/Execute.lean ====
section
/-! SUPPORT. Fetch and step: the fetched bytes always decode, and what a step can be. -/

namespace Sys2Proof.Machine

/-- The fetched bytes begin with the byte at PC. -/
theorem State.fetch_eq (s : State) :
    s.fetch = (s.readByte s.pc ::
      [s.readByte (s.pc + 1), s.readByte (s.pc + 2)].take (opcodeLength (s.readByte s.pc) - 1)) := by
  unfold State.fetch
  obtain h | h | h := opcodeLength_cases (s.readByte s.pc) <;> rw [h] <;> simp [List.range_succ]

/-- The fetched bytes are one whole instruction, so the executor's step runs one and refuses nothing. -/
theorem executorStep_eq_exec (s : State) : ∃ i, decode s.fetch = .ok (i, []) ∧ s.executorStep = exec i s := by
  suffices h : ∃ i, decode s.fetch = .ok (i, []) by
    obtain ⟨i, hi⟩ := h
    exact ⟨i, hi, by simp [State.executorStep, hi]⟩
  obtain ⟨k, hk⟩ := exists_shape (s.readByte s.pc)
  rw [State.fetch_eq, opcodeLength_of_shape hk]
  cases k with
  | f1 i => exact ⟨i, decode_f1 hk _⟩
  | f2 i => exact ⟨i _, decode_f2 hk _ _⟩
  | f3 i => exact ⟨i _, decode_f3 hk _ _ _⟩

/-- What a step that answers a next state can be: the machine was running, and either the requested interrupt was
accepted or one instruction was executed (00_scope.md R15, 60_exceptions.md R317). -/
theorem step_cases {s t : State} (h : step s = .next t) :
    s.fault = false ∧ s.halted = false ∧
      ((∃ n, s.request = some n ∧ t = s.afterRequest.acceptInterrupt n) ∨
        (s.request = none ∧ ∃ i, decode s.afterRequest.fetch = .ok (i, []) ∧ exec i s.afterRequest = .next t)) := by
  unfold step at h
  cases hf : s.fault with
  | true => simp [hf] at h
  | false =>
    cases hh : s.halted with
    | true => simp [hf, hh] at h
    | false =>
      refine ⟨rfl, rfl, ?_⟩
      cases hr : s.request with
      | some n =>
        simp only [hf, hh, hr, Bool.false_eq_true, if_false, Host.Outcome.next.injEq] at h
        exact .inl ⟨n, rfl, h.symm⟩
      | none =>
        simp only [hf, hh, hr, Bool.false_eq_true, if_false] at h
        obtain ⟨i, hi, he⟩ := executorStep_eq_exec s.afterRequest
        exact .inr ⟨rfl, i, hi, he ▸ h⟩

theorem State.request_of_disabled {s : State} (h : s.inte = false) : s.request = none := by
  simp [State.request, h]

theorem State.afterRequest_of_disabled {s : State} (h : s.inte = false) : s.afterRequest = s := by
  simp [State.afterRequest, h]

/-- With interrupts disabled, a step of a running machine is the executor's. -/
theorem step_of_disabled {s : State} (hf : s.fault = false) (hh : s.halted = false) (hi : s.inte = false) :
    step s = s.executorStep := by
  simp [step, hf, hh, State.request_of_disabled hi, State.afterRequest_of_disabled hi]

end Sys2Proof.Machine
end

