-- ==== Sys2Proof/Laws/PerInstr.lean ====
section
/-! SUPPORT. Statements for all instructions, one lemma per constructor. `EncodedLength`: a well-formed instruction is
encoded in as many bytes as its opcode byte says (30_encoding.md R80, R81). -/

namespace Sys2Proof.Laws.EncodedLength

/-- A well-formed instruction's encoding has the length its opcode byte alone fixes (30_encoding.md R80). -/
def Statement (i : Instr) : Prop := i.WellFormed = true → (encode i).length = opcodeLength i.opcode

theorem movRR (dst : Reg) (src : Reg) : Statement (.movRR dst src) := fun _ => by
  cases dst <;> cases src <;> rfl
theorem movRM (dst : Reg) : Statement (.movRM dst) := fun _ => by
  cases dst <;> rfl
theorem movMR (src : Reg) : Statement (.movMR src) := fun _ => by
  cases src <;> rfl
theorem mviR (dst : Reg) (imm : Byte) : Statement (.mviR dst imm) := fun _ =>
  (by cases dst <;> decide +kernel : 2 = opcodeLength (Instr.mviR dst 0).opcode)
theorem mviM (imm : Byte) : Statement (.mviM imm) := fun _ => (by decide +kernel : 2 = opcodeLength (Instr.mviM 0).opcode)
theorem lxi (rp : Pair) (imm : Word) : Statement (.lxi rp imm) := fun _ =>
  (by cases rp <;> decide +kernel : 3 = opcodeLength (Instr.lxi rp 0).opcode)
theorem ldax (rp : IndexPair) : Statement (.ldax rp) := fun _ => by
  cases rp <;> rfl
theorem stax (rp : IndexPair) : Statement (.stax rp) := fun _ => by
  cases rp <;> rfl
theorem lda (addr : Word) : Statement (.lda addr) := fun _ => (by decide +kernel : 3 = opcodeLength (Instr.lda 0).opcode)
theorem sta (addr : Word) : Statement (.sta addr) := fun _ => (by decide +kernel : 3 = opcodeLength (Instr.sta 0).opcode)
theorem lhld (addr : Word) : Statement (.lhld addr) := fun _ => (by decide +kernel : 3 = opcodeLength (Instr.lhld 0).opcode)
theorem shld (addr : Word) : Statement (.shld addr) := fun _ => (by decide +kernel : 3 = opcodeLength (Instr.shld 0).opcode)
theorem add (src : Operand) : Statement (.add src) := fun _ => by
  rcases src with ⟨r⟩ | _
  · cases r <;> rfl
  · rfl
theorem adc (src : Operand) : Statement (.adc src) := fun _ => by
  rcases src with ⟨r⟩ | _
  · cases r <;> rfl
  · rfl
theorem sub (src : Operand) : Statement (.sub src) := fun _ => by
  rcases src with ⟨r⟩ | _
  · cases r <;> rfl
  · rfl
theorem sbb (src : Operand) : Statement (.sbb src) := fun _ => by
  rcases src with ⟨r⟩ | _
  · cases r <;> rfl
  · rfl
theorem ana (src : Operand) : Statement (.ana src) := fun _ => by
  rcases src with ⟨r⟩ | _
  · cases r <;> rfl
  · rfl
theorem xra (src : Operand) : Statement (.xra src) := fun _ => by
  rcases src with ⟨r⟩ | _
  · cases r <;> rfl
  · rfl
theorem ora (src : Operand) : Statement (.ora src) := fun _ => by
  rcases src with ⟨r⟩ | _
  · cases r <;> rfl
  · rfl
theorem cmp (src : Operand) : Statement (.cmp src) := fun _ => by
  rcases src with ⟨r⟩ | _
  · cases r <;> rfl
  · rfl
theorem adi (imm : Byte) : Statement (.adi imm) := fun _ => (by decide +kernel : 2 = opcodeLength (Instr.adi 0).opcode)
theorem aci (imm : Byte) : Statement (.aci imm) := fun _ => (by decide +kernel : 2 = opcodeLength (Instr.aci 0).opcode)
theorem sui (imm : Byte) : Statement (.sui imm) := fun _ => (by decide +kernel : 2 = opcodeLength (Instr.sui 0).opcode)
theorem sbi (imm : Byte) : Statement (.sbi imm) := fun _ => (by decide +kernel : 2 = opcodeLength (Instr.sbi 0).opcode)
theorem ani (imm : Byte) : Statement (.ani imm) := fun _ => (by decide +kernel : 2 = opcodeLength (Instr.ani 0).opcode)
theorem xri (imm : Byte) : Statement (.xri imm) := fun _ => (by decide +kernel : 2 = opcodeLength (Instr.xri 0).opcode)
theorem ori (imm : Byte) : Statement (.ori imm) := fun _ => (by decide +kernel : 2 = opcodeLength (Instr.ori 0).opcode)
theorem cpi (imm : Byte) : Statement (.cpi imm) := fun _ => (by decide +kernel : 2 = opcodeLength (Instr.cpi 0).opcode)
theorem inrR (dst : Reg) : Statement (.inrR dst) := fun _ => by
  cases dst <;> rfl
theorem inrM : Statement .inrM := fun _ => rfl
theorem dcrR (dst : Reg) : Statement (.dcrR dst) := fun _ => by
  cases dst <;> rfl
theorem dcrM : Statement .dcrM := fun _ => rfl
theorem inx (rp : Pair) : Statement (.inx rp) := fun _ => by
  cases rp <;> rfl
theorem dcx (rp : Pair) : Statement (.dcx rp) := fun _ => by
  cases rp <;> rfl
theorem dad (rp : Pair) : Statement (.dad rp) := fun _ => by
  cases rp <;> rfl
theorem rlc : Statement .rlc := fun _ => rfl
theorem rrc : Statement .rrc := fun _ => rfl
theorem ral : Statement .ral := fun _ => rfl
theorem rar : Statement .rar := fun _ => rfl
theorem jmp (addr : Word) : Statement (.jmp addr) := fun _ => (by decide +kernel : 3 = opcodeLength (Instr.jmp 0).opcode)
theorem jnz (addr : Word) : Statement (.jnz addr) := fun _ => (by decide +kernel : 3 = opcodeLength (Instr.jnz 0).opcode)
theorem jz (addr : Word) : Statement (.jz addr) := fun _ => (by decide +kernel : 3 = opcodeLength (Instr.jz 0).opcode)
theorem jnc (addr : Word) : Statement (.jnc addr) := fun _ => (by decide +kernel : 3 = opcodeLength (Instr.jnc 0).opcode)
theorem jc (addr : Word) : Statement (.jc addr) := fun _ => (by decide +kernel : 3 = opcodeLength (Instr.jc 0).opcode)
theorem jpo (addr : Word) : Statement (.jpo addr) := fun _ => (by decide +kernel : 3 = opcodeLength (Instr.jpo 0).opcode)
theorem jpe (addr : Word) : Statement (.jpe addr) := fun _ => (by decide +kernel : 3 = opcodeLength (Instr.jpe 0).opcode)
theorem jp (addr : Word) : Statement (.jp addr) := fun _ => (by decide +kernel : 3 = opcodeLength (Instr.jp 0).opcode)
theorem jm (addr : Word) : Statement (.jm addr) := fun _ => (by decide +kernel : 3 = opcodeLength (Instr.jm 0).opcode)
theorem call (addr : Word) : Statement (.call addr) := fun _ => (by decide +kernel : 3 = opcodeLength (Instr.call 0).opcode)
theorem cnz (addr : Word) : Statement (.cnz addr) := fun _ => (by decide +kernel : 3 = opcodeLength (Instr.cnz 0).opcode)
theorem cz (addr : Word) : Statement (.cz addr) := fun _ => (by decide +kernel : 3 = opcodeLength (Instr.cz 0).opcode)
theorem cnc (addr : Word) : Statement (.cnc addr) := fun _ => (by decide +kernel : 3 = opcodeLength (Instr.cnc 0).opcode)
theorem cc (addr : Word) : Statement (.cc addr) := fun _ => (by decide +kernel : 3 = opcodeLength (Instr.cc 0).opcode)
theorem cpo (addr : Word) : Statement (.cpo addr) := fun _ => (by decide +kernel : 3 = opcodeLength (Instr.cpo 0).opcode)
theorem cpe (addr : Word) : Statement (.cpe addr) := fun _ => (by decide +kernel : 3 = opcodeLength (Instr.cpe 0).opcode)
theorem cp (addr : Word) : Statement (.cp addr) := fun _ => (by decide +kernel : 3 = opcodeLength (Instr.cp 0).opcode)
theorem cm (addr : Word) : Statement (.cm addr) := fun _ => (by decide +kernel : 3 = opcodeLength (Instr.cm 0).opcode)
theorem ret : Statement .ret := fun _ => rfl
theorem rnz : Statement .rnz := fun _ => rfl
theorem rz : Statement .rz := fun _ => rfl
theorem rnc : Statement .rnc := fun _ => rfl
theorem rc : Statement .rc := fun _ => rfl
theorem rpo : Statement .rpo := fun _ => rfl
theorem rpe : Statement .rpe := fun _ => rfl
theorem rp : Statement .rp := fun _ => rfl
theorem rm : Statement .rm := fun _ => rfl
theorem rst (n : Fin 8) : Statement (.rst n) := by
  revert n
  unfold Statement
  decide +kernel
theorem pchl : Statement .pchl := fun _ => rfl
theorem push (rp : StackPair) : Statement (.push rp) := fun _ => by
  cases rp <;> rfl
theorem pop (rp : StackPair) : Statement (.pop rp) := fun _ => by
  cases rp <;> rfl
theorem pushPsw : Statement .pushPsw := fun _ => rfl
theorem popPsw : Statement .popPsw := fun _ => rfl
theorem xthl : Statement .xthl := fun _ => rfl
theorem sphl : Statement .sphl := fun _ => rfl
theorem nop : Statement .nop := fun _ => rfl
theorem xchg : Statement .xchg := fun _ => rfl
theorem cma : Statement .cma := fun _ => rfl
theorem cmc : Statement .cmc := fun _ => rfl
theorem di : Statement .di := fun _ => rfl
theorem ei : Statement .ei := fun _ => rfl
theorem hlt : Statement .hlt := fun _ => rfl
theorem stc : Statement .stc := fun _ => rfl
theorem inp (port : Byte) : Statement (.inp port) := fun _ => (by decide +kernel : 2 = opcodeLength (Instr.inp 0).opcode)
theorem outp (port : Byte) : Statement (.outp port) := fun _ => (by decide +kernel : 2 = opcodeLength (Instr.outp 0).opcode)
theorem daa : Statement .daa := fun _ => rfl
theorem undoc00 (n : Fin 8) : Statement (.undoc00 n) := by
  revert n
  unfold Statement
  decide +kernel
theorem undocCB : Statement .undocCB := fun _ => rfl
theorem undocD9 : Statement .undocD9 := fun _ => rfl
theorem undocXD (p : Fin 4) : Statement (.undocXD p) := by
  revert p
  unfold Statement
  decide +kernel

end Sys2Proof.Laws.EncodedLength
end

