-- ==== Sys2Proof/Tests/Slice0.lean ====
section
/-! SUPPORT. Tests: ill-formed terms are refused; a word of every row of the opcode table, written out bit by bit from
30_encoding.md R92, decodes to its instruction; single steps from 95_test_vectors.md, whose expected results are the
spec's; and a witness for the hypotheses of every obligation that has some. -/

namespace Sys2Proof.Tests

open Sys2Proof.Machine Sys2Proof.Spec

/-- The bytes decode to the instruction, with none left over. -/
def decodesTo (bytes : List Byte) (i : Instr) : Bool :=
  match decode bytes with
  | .ok (j, []) => decide (j = i)
  | _ => false

/-- Bytes stored at the addresses listed. -/
def store (s : State) (cells : List (Word × Byte)) : State :=
  cells.foldl (fun s cell => s.writeByte cell.1 cell.2) s

/-- The start of a vector of 95_test_vectors.md: its cells, then its bytes at its address, and PC there. -/
def start (addr : Word) (bytes : List Byte) (s : State) (cells : List (Word × Byte)) : State :=
  ((store s cells).setPC addr).placeBytes addr bytes

/-- One step leads from the one state to the other. -/
def steps (s t : State) : Bool :=
  match step s with
  | .next u => decide (u = t)
  | _ => false

/-- There is no step, for the reason given. -/
def stops (s : State) (f : Fault) : Bool :=
  match step s with
  | .fault g => decide (g = f)
  | _ => false

/-- The instruction leads from the one state to the other. -/
def execs (i : Instr) (s t : State) : Bool :=
  match exec i s with
  | .next u => decide (u = t)
  | _ => false

/-- The five flags Z, S, P, CY, AC. -/
def fl (z s p cy ac : Nat) : Flags := ⟨z == 1, s == 1, p == 1, cy == 1, ac == 1⟩

/-- All five flags 1. -/
def allFlags : Flags := ⟨true, true, true, true, true⟩

/-! ### Well-formed terms and decoding -/

theorem test_wellFormed_undoc00_refused : Instr.WellFormed (.undoc00 0) = false := by decide
theorem test_wellFormed_undocXD_refused : Instr.WellFormed (.undocXD 0) = false := by decide
theorem test_wellFormed_accepted :
    (Instr.WellFormed (.undoc00 1) && Instr.WellFormed (.undocXD 3) && Instr.WellFormed (.lxi .SP 0xFFFF)) = true := by
  decide

theorem test_decode_data_movement :
    [
      decodesTo [0b01111000] (.movRR .A .B),
      decodesTo [0b01100011] (.movRR .H .E),
      decodesTo [0b01001110] (.movRM .C),
      decodesTo [0b01110101] (.movMR .L),
      decodesTo [0b00101110, 0xFF] (.mviR .L 0xFF),
      decodesTo [0b00110110, 0x7F] (.mviM 0x7F),
      decodesTo [0b00000001, 0x34, 0x12] (.lxi .BC 0x1234),
      decodesTo [0b00110001, 0x00, 0x20] (.lxi .SP 0x2000),
      decodesTo [0b00001010] (.ldax .BC),
      decodesTo [0b00010010] (.stax .DE),
      decodesTo [0b00111010, 0xCD, 0xAB] (.lda 0xABCD),
      decodesTo [0b00110010, 0xCD, 0xAB] (.sta 0xABCD),
      decodesTo [0b00101010, 0xFF, 0x00] (.lhld 0x00FF),
      decodesTo [0b00100010, 0x00, 0xFF] (.shld 0xFF00)].all id = true := by decide

theorem test_decode_arithmetic :
    [
      decodesTo [0b10000001] (.add (.reg .C)),
      decodesTo [0b10001110] (.adc .M),
      decodesTo [0b10010111] (.sub (.reg .A)),
      decodesTo [0b10011010] (.sbb (.reg .D)),
      decodesTo [0b10100100] (.ana (.reg .H)),
      decodesTo [0b10101111] (.xra (.reg .A)),
      decodesTo [0b10110110] (.ora .M),
      decodesTo [0b10111011] (.cmp (.reg .E))].all id = true := by decide

theorem test_decode_immediate :
    [
      decodesTo [0b11000110, 0x01] (.adi 0x01),
      decodesTo [0b11001110, 0x80] (.aci 0x80),
      decodesTo [0b11010110, 0xFF] (.sui 0xFF),
      decodesTo [0b11011110, 0x00] (.sbi 0x00),
      decodesTo [0b11100110, 0x0F] (.ani 0x0F),
      decodesTo [0b11101110, 0x81] (.xri 0x81),
      decodesTo [0b11110110, 0xF0] (.ori 0xF0),
      decodesTo [0b11111110, 0x40] (.cpi 0x40)].all id = true := by decide

theorem test_decode_count_and_arith16 :
    [
      decodesTo [0b00101100] (.inrR .L),
      decodesTo [0b00110100] (.inrM),
      decodesTo [0b00111101] (.dcrR .A),
      decodesTo [0b00110101] (.dcrM),
      decodesTo [0b00010011] (.inx .DE),
      decodesTo [0b00111011] (.dcx .SP),
      decodesTo [0b00101001] (.dad .HL)].all id = true := by decide

theorem test_decode_rotates :
    [
      decodesTo [0b00000111] (.rlc),
      decodesTo [0b00001111] (.rrc),
      decodesTo [0b00010111] (.ral),
      decodesTo [0b00011111] (.rar)].all id = true := by decide

theorem test_decode_jumps :
    [
      decodesTo [0b11000011, 0x00, 0x18] (.jmp 0x1800),
      decodesTo [0b11000010, 0x05, 0x01] (.jnz 0x0105),
      decodesTo [0b11001010, 0x05, 0x01] (.jz 0x0105),
      decodesTo [0b11010010, 0x05, 0x01] (.jnc 0x0105),
      decodesTo [0b11011010, 0x05, 0x01] (.jc 0x0105),
      decodesTo [0b11100010, 0x05, 0x01] (.jpo 0x0105),
      decodesTo [0b11101010, 0x05, 0x01] (.jpe 0x0105),
      decodesTo [0b11110010, 0x05, 0x01] (.jp 0x0105),
      decodesTo [0b11111010, 0x05, 0x01] (.jm 0x0105),
      decodesTo [0b11101001] (.pchl)].all id = true := by decide

theorem test_decode_calls :
    [
      decodesTo [0b11001101, 0x00, 0x02] (.call 0x0200),
      decodesTo [0b11000100, 0x05, 0x01] (.cnz 0x0105),
      decodesTo [0b11001100, 0x05, 0x01] (.cz 0x0105),
      decodesTo [0b11010100, 0x05, 0x01] (.cnc 0x0105),
      decodesTo [0b11011100, 0x05, 0x01] (.cc 0x0105),
      decodesTo [0b11100100, 0x05, 0x01] (.cpo 0x0105),
      decodesTo [0b11101100, 0x05, 0x01] (.cpe 0x0105),
      decodesTo [0b11110100, 0x05, 0x01] (.cp 0x0105),
      decodesTo [0b11111100, 0x05, 0x01] (.cm 0x0105),
      decodesTo [0b11000111] (.rst 0),
      decodesTo [0b11110111] (.rst 6)].all id = true := by decide

theorem test_decode_returns :
    [
      decodesTo [0b11001001] (.ret),
      decodesTo [0b11000000] (.rnz),
      decodesTo [0b11001000] (.rz),
      decodesTo [0b11010000] (.rnc),
      decodesTo [0b11011000] (.rc),
      decodesTo [0b11100000] (.rpo),
      decodesTo [0b11101000] (.rpe),
      decodesTo [0b11110000] (.rp),
      decodesTo [0b11111000] (.rm)].all id = true := by decide

theorem test_decode_stack :
    [
      decodesTo [0b11100101] (.push .HL),
      decodesTo [0b11010001] (.pop .DE),
      decodesTo [0b11110101] (.pushPsw),
      decodesTo [0b11110001] (.popPsw),
      decodesTo [0b11100011] (.xthl),
      decodesTo [0b11111001] (.sphl)].all id = true := by decide

theorem test_decode_misc_and_ports :
    [
      decodesTo [0b00000000] (.nop),
      decodesTo [0b11101011] (.xchg),
      decodesTo [0b00101111] (.cma),
      decodesTo [0b00111111] (.cmc),
      decodesTo [0b11110011] (.di),
      decodesTo [0b11111011] (.ei),
      decodesTo [0b01110110] (.hlt),
      decodesTo [0b00110111] (.stc),
      decodesTo [0b11011011, 0x03] (.inp 0x03),
      decodesTo [0b11010011, 0xFF] (.outp 0xFF)].all id = true := by decide

theorem test_decode_faulting_bytes :
    [
      decodesTo [0b00100111] (.daa),
      decodesTo [0b00001000] (.undoc00 1),
      decodesTo [0b00111000] (.undoc00 7),
      decodesTo [0b11001011] (.undocCB),
      decodesTo [0b11011001] (.undocD9),
      decodesTo [0b11011101] (.undocXD 1),
      decodesTo [0b11111101] (.undocXD 3)].all id = true := by decide

/-- An instruction cut short is refused by name. -/
theorem test_decode_truncated : (match decode [0xC3, 0x00] with | .error _ => true | .ok _ => false) = true := by
  decide

/-- The table's numbering: byte 0 is bits 7 to 0, and bits above those given are 0. -/
theorem test_decodeTableWord_jmp : decodeTableWord 24 0x1800C3 = some (.jmp 0x1800) := by decide
theorem test_decodeTableWord_short : decodeTableWord 8 0xC3 = some (.jmp 0x0000) := by decide

/-- Which bytes fault is read from `UNIMPLEMENTED` (00_scope.md R5): of another core's list, 0x76 would be no HLT. -/
theorem test_decode_reads_unimplemented :
    (Config.hardware.decodeOpcode 0x27).isSome = true ∧
      ({ Config.hardware with unimplemented := [] }.decodeOpcode 0x27).isSome = false ∧
      ({ Config.hardware with unimplemented := [0x76] }.decodeOpcode 0x76).isSome = false := by decide

/-! ### Encoding gives the bytes back -/

theorem test_encode_lxi : encode (.lxi .DE 0xABCD) = [0x11, 0xCD, 0xAB] := by decide
theorem test_encode_undocXD : encode (.undocXD 3) = [0xFD] := by decide

/-! ### Single steps, 95_test_vectors.md part 2 and section 3.1 -/

/-- M2 (R111): MOV A,B. -/
theorem test_mov_M2 :
    let s := start 0x0000 [0x78] { State.reset with b := 0x12, flags := allFlags } []
    steps s { s with a := 0x12, pc := 0x0001 } = true := by decide

/-- M4 (R111): MOV C,A. -/
theorem test_mov_M4 :
    let s := start 0x0000 [0x4F] { State.reset with a := 0x9C, flags := allFlags } []
    steps s { s with c := 0x9C, pc := 0x0001 } = true := by decide

/-- M6 (R112): MOV H,M: address formed from the old HL. -/
theorem test_mov_M6 :
    let s := start 0x0000 [0x66] { State.reset with h := 0x20, l := 0x00, flags := allFlags } [(0x2000, 0x31)]
    steps s { s with h := 0x31, pc := 0x0001 } = true := by decide

/-- M8 (R112): MOV B,M at HL=0xFFFF. -/
theorem test_mov_M8 :
    let s := start 0x0100 [0x46] { State.reset with h := 0xFF, l := 0xFF, flags := allFlags } [(0xFFFF, 0xEE)]
    steps s { s with b := 0xEE, pc := 0x0101 } = true := by decide

/-- M10 (R113): MOV M,H stores 0x20. -/
theorem test_mov_M10 :
    let s := start 0x0000 [0x74] { State.reset with h := 0x20, l := 0x10, flags := allFlags } []
    steps s (store { s with pc := 0x0001 } [(0x2010, 0x20)]) = true := by decide

/-- M12 (R113): MOV M,B at HL=0x0000. -/
theorem test_mov_M12 :
    let s := start 0x0100 [0x70] { State.reset with b := 0xC3, h := 0x00, l := 0x00, flags := allFlags } []
    steps s (store { s with pc := 0x0101 } [(0x0000, 0xC3)]) = true := by decide

/-- M13 (R114): MVI A,0x3E. -/
theorem test_mvi_M13 :
    let s := start 0x0000 [0x3E, 0x3E] { State.reset with flags := allFlags } []
    steps s { s with a := 0x3E, pc := 0x0002 } = true := by decide

/-- M14 (R114): MVI L,0xFF. -/
theorem test_mvi_M14 :
    let s := start 0x0000 [0x2E, 0xFF] { State.reset with flags := allFlags } []
    steps s { s with l := 0xFF, pc := 0x0002 } = true := by decide

/-- M15 (R115): MVI M,0xFF. -/
theorem test_mvi_M15 :
    let s := start 0x0000 [0x36, 0xFF] { State.reset with h := 0x24, l := 0x00, flags := allFlags } []
    steps s (store { s with pc := 0x0002 } [(0x2400, 0xFF)]) = true := by decide

/-- M19 (R116): LXI SP,0x2000. -/
theorem test_lxi_M19 :
    let s := start 0x0000 [0x31, 0x00, 0x20] { State.reset with flags := allFlags } []
    steps s { s with sp := 0x2000, pc := 0x0003 } = true := by decide

/-- M20 (R116): LXI H,0x1234: instruction wraps the end of memory: bytes at 0xFFFE, 0xFFFF,
0x0000; PC becomes 0x0001. -/
theorem test_lxi_M20 :
    let s := start 0xFFFE [0x21, 0x34, 0x12] { State.reset with flags := allFlags } []
    steps s { s with h := 0x12, l := 0x34, pc := 0x0001 } = true := by decide

/-- M22 (R117): LDAX D. -/
theorem test_ldax_M22 :
    let s := start 0x0000 [0x1A] { State.reset with d := 0x1B, e := 0x00, flags := allFlags } [(0x1B00, 0x7F)]
    steps s { s with a := 0x7F, pc := 0x0001 } = true := by decide

/-- M24 (R118): STAX D at 0xFFFF. -/
theorem test_stax_M24 :
    let s := start 0x0100 [0x12] { State.reset with d := 0xFF, e := 0xFF, a := 0x42, flags := allFlags } []
    steps s (store { s with pc := 0x0101 } [(0xFFFF, 0x42)]) = true := by decide

/-- M26 (R119): LDA of its own opcode byte. -/
theorem test_lda_M26 :
    let s := start 0x0000 [0x3A, 0x00, 0x00] { State.reset with flags := allFlags } []
    steps s { s with a := 0x3A, pc := 0x0003 } = true := by decide

/-- M27 (R120): STA 0x20C0. -/
theorem test_sta_M27 :
    let s := start 0x0000 [0x32, 0xC0, 0x20] { State.reset with a := 0x07, flags := allFlags } []
    steps s (store { s with pc := 0x0003 } [(0x20C0, 0x07)]) = true := by decide

/-- M29 (R121): LHLD 0xFFFF: L from 0xFFFF, H from 0x0000. -/
theorem test_lhld_M29 :
    let s := start 0x0100 [0x2A, 0xFF, 0xFF] { State.reset with flags := allFlags } [(0xFFFF, 0xCD), (0x0000, 0xAB)]
    steps s { s with h := 0xAB, l := 0xCD, pc := 0x0103 } = true := by decide

/-- M31 (R122): SHLD 0xFFFF: L to 0xFFFF, H to 0x0000. -/
theorem test_shld_M31 :
    let s := start 0x0100 [0x22, 0xFF, 0xFF] { State.reset with h := 0xBE, l := 0xEF, flags := allFlags } []
    steps s (store { s with pc := 0x0103 } [(0x0000, 0xBE), (0xFFFF, 0xEF)]) = true := by decide

/-- A3 (R144): ADD B. -/
theorem test_add_A3 :
    let s := start 0x0000 [0x80] { State.reset with a := 0xFF, b := 0x01 } []
    steps s { s with a := 0x00, pc := 0x0001, flags := fl 1 0 1 1 0 } = true := by decide

/-- A7 (R144): ADD M. -/
theorem test_add_A7 :
    let s := start 0x0000 [0x86] { State.reset with a := 0x10, h := 0x20, l := 0x00 } [(0x2000, 0x22)]
    steps s { s with a := 0x32, pc := 0x0001, flags := fl 0 0 0 0 0 } = true := by decide

/-- A10 (R145): ADC B. -/
theorem test_adc_A10 :
    let s := start 0x0000 [0x88] { State.reset with a := 0xFF, b := 0xFF, flags := fl 0 0 0 1 0 } []
    steps s { s with pc := 0x0001, flags := fl 0 1 1 1 0 } = true := by decide

/-- A13 (R145): ADC M. -/
theorem test_adc_A13 :
    let s := start 0x0000 [0x8E] { State.reset with a := 0x0F, h := 0x20, l := 0x00, flags := fl 0 0 0 1 0 }
      [(0x2000, 0xF0)]
    steps s { s with a := 0x00, pc := 0x0001, flags := fl 1 0 1 1 0 } = true := by decide

/-- A16 (R146): SUB B. -/
theorem test_sub_A16 :
    let s := start 0x0000 [0x90] { State.reset with a := 0x00, b := 0x01 } []
    steps s { s with a := 0xFF, pc := 0x0001, flags := fl 0 1 1 1 0 } = true := by decide

/-- A18 (R146): SUB A. -/
theorem test_sub_A18 :
    let s := start 0x0000 [0x97] { State.reset with a := 0x77, flags := fl 0 0 0 1 0 } []
    steps s { s with a := 0x00, pc := 0x0001, flags := fl 1 0 1 0 0 } = true := by decide

/-- A22 (R147): SBB B: t = -256: result 0 with a borrow. -/
theorem test_sbb_A22 :
    let s := start 0x0000 [0x98] { State.reset with a := 0x00, b := 0xFF, flags := fl 0 0 0 1 0 } []
    steps s { s with pc := 0x0001, flags := fl 1 0 1 1 0 } = true := by decide

/-- A26 (R147): SBB M. -/
theorem test_sbb_A26 :
    let s := start 0x0000 [0x9E] { State.reset with a := 0x10, h := 0x20, l := 0x00, flags := fl 0 0 0 1 0 }
      [(0x2000, 0x0F)]
    steps s { s with a := 0x00, pc := 0x0001, flags := fl 1 0 1 0 0 } = true := by decide

/-- A27 (R151): CMP B: A < v. -/
theorem test_cmp_A27 :
    let s := start 0x0000 [0xB8] { State.reset with a := 0x02, b := 0x05 } []
    steps s { s with pc := 0x0001, flags := fl 0 1 0 1 0 } = true := by decide

/-- A31 (R151): CMP M. -/
theorem test_cmp_A31 :
    let s := start 0x0000 [0xBE] { State.reset with a := 0x00, h := 0x20, l := 0x00 } [(0x2000, 0xFF)]
    steps s { s with pc := 0x0001, flags := fl 0 0 0 1 0 } = true := by decide

/-- A33 (R152): ADI 0x42. -/
theorem test_adi_A33 :
    let s := start 0x0000 [0xC6, 0x42] { State.reset with a := 0x14 } []
    steps s { s with a := 0x56, pc := 0x0002, flags := fl 0 0 1 0 0 } = true := by decide

/-- A34 (R152): ADI 0 clears CY and sets Z S P from A. -/
theorem test_adi_A34 :
    let s := start 0x0000 [0xC6, 0x00] { State.reset with a := 0x00, flags := fl 0 0 0 1 0 } []
    steps s { s with pc := 0x0002, flags := fl 1 0 1 0 0 } = true := by decide

/-- A35 (R153): ACI 0xBE. -/
theorem test_aci_A35 :
    let s := start 0x0000 [0xCE, 0xBE] { State.reset with a := 0x56, flags := fl 0 0 0 1 0 } []
    steps s { s with a := 0x15, pc := 0x0002, flags := fl 0 0 0 1 0 } = true := by decide

/-- A36 (R154): SUI 0x01. -/
theorem test_sui_A36 :
    let s := start 0x0000 [0xD6, 0x01] { State.reset with a := 0x00 } []
    steps s { s with a := 0xFF, pc := 0x0002, flags := fl 0 1 1 1 0 } = true := by decide

/-- A38 (R155): SBI 0x01. -/
theorem test_sbi_A38 :
    let s := start 0x0000 [0xDE, 0x01] { State.reset with a := 0x10, flags := fl 0 0 0 1 0 } []
    steps s { s with a := 0x0E, pc := 0x0002, flags := fl 0 0 0 0 0 } = true := by decide

/-- A39 (R155): SBI 0xFF. -/
theorem test_sbi_A39 :
    let s := start 0x0000 [0xDE, 0xFF] { State.reset with a := 0x00, flags := fl 0 0 0 1 0 } []
    steps s { s with pc := 0x0002, flags := fl 1 0 1 1 0 } = true := by decide

/-- A41 (R159): CPI 0x4A. -/
theorem test_cpi_A41 :
    let s := start 0x0000 [0xFE, 0x4A] { State.reset with a := 0x4A } []
    steps s { s with pc := 0x0002, flags := fl 1 0 1 0 0 } = true := by decide

/-- A42 (R159): CPI 0x4B. -/
theorem test_cpi_A42 :
    let s := start 0x0000 [0xFE, 0x4B] { State.reset with a := 0x4A } []
    steps s { s with pc := 0x0002, flags := fl 0 1 1 1 0 } = true := by decide

/-- L1 (R148): ANA B. -/
theorem test_ana_L1 :
    let s := start 0x0000 [0xA0] { State.reset with a := 0xFC, b := 0x0F, flags := fl 0 0 0 1 0 } []
    steps s { s with a := 0x0C, pc := 0x0001, flags := fl 0 0 1 1 0 } = true := by decide

/-- L4 (R148): ANA M. -/
theorem test_ana_L4 :
    let s := start 0x0000 [0xA6] { State.reset with a := 0xFF, h := 0x20, l := 0x00, flags := fl 0 0 0 1 0 }
      [(0x2000, 0x55)]
    steps s { s with a := 0x55, pc := 0x0001, flags := fl 0 0 1 1 0 } = true := by decide

/-- L6 (R149): XRA A: A=0 and CY stays 1. -/
theorem test_xra_L6 :
    let s := start 0x0000 [0xAF] { State.reset with a := 0x99, flags := fl 0 0 0 1 0 } []
    steps s { s with a := 0x00, pc := 0x0001, flags := fl 1 0 1 1 0 } = true := by decide

/-- L7 (R149): XRA M. -/
theorem test_xra_L7 :
    let s := start 0x0000 [0xAE] { State.reset with a := 0x0F, h := 0x20, l := 0x00, flags := fl 0 0 0 1 0 }
      [(0x2000, 0xFF)]
    steps s { s with a := 0xF0, pc := 0x0001, flags := fl 0 1 1 1 0 } = true := by decide

/-- L8 (R150): ORA B. -/
theorem test_ora_L8 :
    let s := start 0x0000 [0xB0] { State.reset with a := 0x33, b := 0x0F, flags := fl 0 0 0 1 0 } []
    steps s { s with a := 0x3F, pc := 0x0001, flags := fl 0 0 1 1 0 } = true := by decide

/-- L10 (R150): ORA M. -/
theorem test_ora_L10 :
    let s := start 0x0000 [0xB6] { State.reset with a := 0x80, h := 0x20, l := 0x00, flags := fl 0 0 0 1 0 }
      [(0x2000, 0x01)]
    steps s { s with a := 0x81, pc := 0x0001, flags := fl 0 1 1 1 0 } = true := by decide

/-- L11 (R156): ANI 0x0F. -/
theorem test_ani_L11 :
    let s := start 0x0000 [0xE6, 0x0F] { State.reset with a := 0x3A, flags := fl 0 0 0 1 0 } []
    steps s { s with a := 0x0A, pc := 0x0002, flags := fl 0 0 1 1 0 } = true := by decide

/-- L14 (R157): XRI 0xFF complements and sets Z. -/
theorem test_xri_L14 :
    let s := start 0x0000 [0xEE, 0xFF] { State.reset with a := 0xFF, flags := fl 0 0 0 1 0 } []
    steps s { s with a := 0x00, pc := 0x0002, flags := fl 1 0 1 1 0 } = true := by decide

/-- L15 (R158): ORI 0x0F. -/
theorem test_ori_L15 :
    let s := start 0x0000 [0xF6, 0x0F] { State.reset with a := 0xB5, flags := fl 0 0 0 1 0 } []
    steps s { s with a := 0xBF, pc := 0x0002, flags := fl 0 1 0 1 0 } = true := by decide

/-- I3 (R160): INR B: wrap to 0: CY stays 1. -/
theorem test_inr_I3 :
    let s := start 0x0000 [0x04] { State.reset with b := 0xFF, flags := fl 0 0 0 1 0 } []
    steps s { s with b := 0x00, pc := 0x0001, flags := fl 1 0 1 1 0 } = true := by decide

/-- I5 (R160): INR L does not carry into H. -/
theorem test_inr_I5 :
    let s := start 0x0000 [0x2C] { State.reset with h := 0x20, l := 0xFF } []
    steps s { s with l := 0x00, pc := 0x0001, flags := fl 1 0 1 0 0 } = true := by decide

/-- I8 (R161): INR M. -/
theorem test_inr_I8 :
    let s := start 0x0000 [0x34] { State.reset with h := 0x20, l := 0x00 } [(0x2000, 0x41)]
    steps s (store { s with pc := 0x0001, flags := fl 0 0 1 0 0 } [(0x2000, 0x42)]) = true := by decide

/-- I10 (R162): DCR C: wrap to 0xFF: CY stays 0. -/
theorem test_dcr_I10 :
    let s := start 0x0000 [0x0D] { State.reset with c := 0x00, flags := fl 0 0 0 0 0 } []
    steps s { s with c := 0xFF, pc := 0x0001, flags := fl 0 1 1 0 0 } = true := by decide

/-- I13 (R162): DCR D. -/
theorem test_dcr_I13 :
    let s := start 0x0000 [0x15] { State.reset with d := 0x01, e := 0x00 } []
    steps s { s with d := 0x00, pc := 0x0001, flags := fl 1 0 1 0 0 } = true := by decide

/-- I15 (R163): DCR M. -/
theorem test_dcr_I15 :
    let s := start 0x0000 [0x35] { State.reset with h := 0x20, l := 0x00, flags := fl 0 0 0 1 0 } [(0x2000, 0x00)]
    steps s (store { s with pc := 0x0001, flags := fl 0 1 1 1 0 } [(0x2000, 0xFF)]) = true := by decide

/-- W2 (R181): INX D: wrap, no flag. -/
theorem test_inx_W2 :
    let s := start 0x0000 [0x13] { State.reset with d := 0xFF, e := 0xFF, flags := fl 1 1 1 0 1 } []
    steps s { s with d := 0x00, e := 0x00, pc := 0x0001 } = true := by decide

/-- W4 (R181): INX SP. -/
theorem test_inx_W4 :
    let s := start 0x0000 [0x33] { State.reset with sp := 0xFFFF, flags := fl 1 1 1 0 1 } []
    steps s { s with sp := 0x0000, pc := 0x0001 } = true := by decide

/-- W5 (R182): DCX B: wrap, no flag. -/
theorem test_dcx_W5 :
    let s := start 0x0000 [0x0B] { State.reset with b := 0x00, c := 0x00, flags := fl 1 1 1 0 1 } []
    steps s { s with b := 0xFF, c := 0xFF, pc := 0x0001 } = true := by decide

/-- W8 (R182): DCX SP. -/
theorem test_dcx_W8 :
    let s := start 0x0000 [0x3B] { State.reset with sp := 0x0000, flags := fl 1 1 1 0 1 } []
    steps s { s with sp := 0xFFFF, pc := 0x0001 } = true := by decide

/-- W10 (R184): DAD B: result 0: Z not written. -/
theorem test_dad_W10 :
    let s := start 0x0000 [0x09]
      { State.reset with h := 0xFF, l := 0xFF, b := 0x00, c := 0x01, flags := fl 1 1 1 0 1 } []
    steps s { s with h := 0x00, l := 0x00, pc := 0x0001, flags := fl 1 1 1 1 1 } = true := by decide

/-- W14 (R184): DAD SP: copies SP to HL, clears CY. -/
theorem test_dad_W14 :
    let s := start 0x0000 [0x39] { State.reset with h := 0x00, l := 0x00, sp := 0x23FE, flags := fl 1 1 1 1 1 } []
    steps s { s with h := 0x23, l := 0xFE, pc := 0x0001, flags := fl 1 1 1 0 1 } = true := by decide

/-- T1 (R191): RLC. -/
theorem test_rlc_T1 :
    let s := start 0x0000 [0x07] { State.reset with a := 0xF2, flags := fl 1 1 1 0 1 } []
    steps s { s with a := 0xE5, pc := 0x0001, flags := fl 1 1 1 1 1 } = true := by decide

/-- T3 (R191): RLC. -/
theorem test_rlc_T3 :
    let s := start 0x0000 [0x07] { State.reset with a := 0x01, flags := fl 1 1 1 1 1 } []
    steps s { s with a := 0x02, pc := 0x0001, flags := fl 1 1 1 0 1 } = true := by decide

/-- T6 (R192): RRC. -/
theorem test_rrc_T6 :
    let s := start 0x0000 [0x0F] { State.reset with a := 0xF2, flags := fl 1 1 1 1 1 } []
    steps s { s with a := 0x79, pc := 0x0001, flags := fl 1 1 1 0 1 } = true := by decide

/-- T7 (R192): RRC. -/
theorem test_rrc_T7 :
    let s := start 0x0000 [0x0F] { State.reset with a := 0x01, flags := fl 1 1 1 0 1 } []
    steps s { s with a := 0x80, pc := 0x0001, flags := fl 1 1 1 1 1 } = true := by decide

/-- T12 (R193): RAL. -/
theorem test_ral_T12 :
    let s := start 0x0000 [0x17] { State.reset with a := 0xB5, flags := fl 1 1 1 1 1 } []
    steps s { s with a := 0x6B, pc := 0x0001 } = true := by decide

/-- T14 (R193): RAL. -/
theorem test_ral_T14 :
    let s := start 0x0000 [0x17] { State.reset with a := 0x00, flags := fl 1 1 1 1 1 } []
    steps s { s with a := 0x01, pc := 0x0001, flags := fl 1 1 1 0 1 } = true := by decide

/-- T17 (R194): RAR. -/
theorem test_rar_T17 :
    let s := start 0x0000 [0x1F] { State.reset with a := 0x6A, flags := fl 1 1 1 0 1 } []
    steps s { s with a := 0x35, pc := 0x0001 } = true := by decide

/-- T19 (R194): RAR. -/
theorem test_rar_T19 :
    let s := start 0x0000 [0x1F] { State.reset with a := 0x00, flags := fl 1 1 1 1 1 } []
    steps s { s with a := 0x80, pc := 0x0001, flags := fl 1 1 1 0 1 } = true := by decide

/-- K1 (R204): JMP 0x1800. -/
theorem test_jmp_K1 :
    let s := start 0x0100 [0xC3, 0x00, 0x18] State.reset []
    steps s { s with pc := 0x1800 } = true := by decide

/-- K3 (R204): JMP 0x1234: bytes at 0xFFFF, 0x0000, 0x0001. -/
theorem test_jmp_K3 :
    let s := start 0xFFFF [0xC3, 0x34, 0x12] State.reset []
    steps s { s with pc := 0x1234 } = true := by decide

/-- K4 (R205): JNZ taken. -/
theorem test_jnz_K4 :
    let s := start 0x0100 [0xC2, 0x05, 0x00] { State.reset with flags := fl 0 0 0 0 0 } []
    steps s { s with pc := 0x0005 } = true := by decide

/-- K5 (R205): JNZ not taken. -/
theorem test_jnz_K5 :
    let s := start 0x0100 [0xC2, 0x05, 0x00] { State.reset with flags := fl 1 0 0 0 0 } []
    steps s { s with pc := 0x0103 } = true := by decide

/-- K6 (R206): JZ taken. -/
theorem test_jz_K6 :
    let s := start 0x0100 [0xCA, 0x05, 0x00] { State.reset with flags := fl 1 0 0 0 0 } []
    steps s { s with pc := 0x0005 } = true := by decide

/-- K7 (R206): JZ not taken. -/
theorem test_jz_K7 :
    let s := start 0x0100 [0xCA, 0x05, 0x00] { State.reset with flags := fl 0 0 0 0 0 } []
    steps s { s with pc := 0x0103 } = true := by decide

/-- K8 (R207): JNC taken. -/
theorem test_jnc_K8 :
    let s := start 0x0100 [0xD2, 0x05, 0x00] { State.reset with flags := fl 0 0 0 0 0 } []
    steps s { s with pc := 0x0005 } = true := by decide

/-- K9 (R207): JNC not taken. -/
theorem test_jnc_K9 :
    let s := start 0x0100 [0xD2, 0x05, 0x00] { State.reset with flags := fl 0 0 0 1 0 } []
    steps s { s with pc := 0x0103 } = true := by decide

/-- K10 (R208): JC taken. -/
theorem test_jc_K10 :
    let s := start 0x0100 [0xDA, 0x05, 0x00] { State.reset with flags := fl 0 0 0 1 0 } []
    steps s { s with pc := 0x0005 } = true := by decide

/-- K11 (R208): JC not taken. -/
theorem test_jc_K11 :
    let s := start 0x0100 [0xDA, 0x05, 0x00] { State.reset with flags := fl 0 0 0 0 0 } []
    steps s { s with pc := 0x0103 } = true := by decide

/-- K12 (R209): JPO taken. -/
theorem test_jpo_K12 :
    let s := start 0x0100 [0xE2, 0x05, 0x00] { State.reset with flags := fl 0 0 0 0 0 } []
    steps s { s with pc := 0x0005 } = true := by decide

/-- K13 (R209): JPO not taken. -/
theorem test_jpo_K13 :
    let s := start 0x0100 [0xE2, 0x05, 0x00] { State.reset with flags := fl 0 0 1 0 0 } []
    steps s { s with pc := 0x0103 } = true := by decide

/-- K14 (R210): JPE taken. -/
theorem test_jpe_K14 :
    let s := start 0x0100 [0xEA, 0x05, 0x00] { State.reset with flags := fl 0 0 1 0 0 } []
    steps s { s with pc := 0x0005 } = true := by decide

/-- K15 (R210): JPE not taken. -/
theorem test_jpe_K15 :
    let s := start 0x0100 [0xEA, 0x05, 0x00] { State.reset with flags := fl 0 0 0 0 0 } []
    steps s { s with pc := 0x0103 } = true := by decide

/-- K16 (R211): JP taken. -/
theorem test_jp_K16 :
    let s := start 0x0100 [0xF2, 0x05, 0x00] { State.reset with flags := fl 0 0 0 0 0 } []
    steps s { s with pc := 0x0005 } = true := by decide

/-- K17 (R211): JP not taken. -/
theorem test_jp_K17 :
    let s := start 0x0100 [0xF2, 0x05, 0x00] { State.reset with flags := fl 0 1 0 0 0 } []
    steps s { s with pc := 0x0103 } = true := by decide

/-- K18 (R212): JM taken. -/
theorem test_jm_K18 :
    let s := start 0x0100 [0xFA, 0x05, 0x00] { State.reset with flags := fl 0 1 0 0 0 } []
    steps s { s with pc := 0x0005 } = true := by decide

/-- K19 (R212): JM not taken. -/
theorem test_jm_K19 :
    let s := start 0x0100 [0xFA, 0x05, 0x00] { State.reset with flags := fl 0 0 0 0 0 } []
    steps s { s with pc := 0x0103 } = true := by decide

/-- K21 (R213): CALL 0x0200: push wraps: cells 0x0000 and 0xFFFF. -/
theorem test_call_K21 :
    let s := start 0x0100 [0xCD, 0x00, 0x02] { State.reset with sp := 0x0001 } []
    steps s (store { s with sp := 0xFFFF, pc := 0x0200 } [(0x0000, 0x01), (0xFFFF, 0x03)]) = true := by decide

/-- K24 (R213): CALL 0x0200: the push overwrites the CALL's own operand bytes at 0x0101 and 0x0102; target already
read. -/
theorem test_call_K24 :
    let s := start 0x0100 [0xCD, 0x00, 0x02] { State.reset with sp := 0x0103 } []
    steps s (store { s with sp := 0x0101, pc := 0x0200 } [(0x0101, 0x03), (0x0102, 0x01)]) = true := by decide

/-- K25 (R231): RST 0; INTE not changed. -/
theorem test_rst_K25 :
    let s := start 0x0150 [0xC7] { State.reset with sp := 0x2400, inte := true, irqs := [none] } []
    steps s (store { s with sp := 0x23FE, pc := 0x0000, irqs := [], choices := 1 } [(0x23FE, 0x51), (0x23FF, 0x01)]) =
      true := by decide

/-- K32 (R231): RST 7; INTE not changed. -/
theorem test_rst_K32 :
    let s := start 0x0150 [0xFF] { State.reset with sp := 0x2400, inte := true, irqs := [none] } []
    steps s (store { s with sp := 0x23FE, pc := 0x0038, irqs := [], choices := 1 } [(0x23FE, 0x51), (0x23FF, 0x01)]) =
      true := by decide

/-- K33 (R214): CNZ taken. -/
theorem test_cnz_K33 :
    let s := start 0x0100 [0xC4, 0x00, 0x02] { State.reset with sp := 0x2400, flags := fl 0 0 0 0 0 } []
    steps s (store { s with sp := 0x23FE, pc := 0x0200 } [(0x23FE, 0x03), (0x23FF, 0x01)]) = true := by decide

/-- K34 (R214): CNZ not taken. -/
theorem test_cnz_K34 :
    let s := start 0x0100 [0xC4, 0x00, 0x02] { State.reset with sp := 0x2400, flags := fl 1 0 0 0 0 } []
    steps s { s with pc := 0x0103 } = true := by decide

/-- K35 (R215): CZ taken. -/
theorem test_cz_K35 :
    let s := start 0x0100 [0xCC, 0x00, 0x02] { State.reset with sp := 0x2400, flags := fl 1 0 0 0 0 } []
    steps s (store { s with sp := 0x23FE, pc := 0x0200 } [(0x23FE, 0x03), (0x23FF, 0x01)]) = true := by decide

/-- K36 (R215): CZ not taken. -/
theorem test_cz_K36 :
    let s := start 0x0100 [0xCC, 0x00, 0x02] { State.reset with sp := 0x2400, flags := fl 0 0 0 0 0 } []
    steps s { s with pc := 0x0103 } = true := by decide

/-- K37 (R216): CNC taken. -/
theorem test_cnc_K37 :
    let s := start 0x0100 [0xD4, 0x00, 0x02] { State.reset with sp := 0x2400, flags := fl 0 0 0 0 0 } []
    steps s (store { s with sp := 0x23FE, pc := 0x0200 } [(0x23FE, 0x03), (0x23FF, 0x01)]) = true := by decide

/-- K38 (R216): CNC not taken. -/
theorem test_cnc_K38 :
    let s := start 0x0100 [0xD4, 0x00, 0x02] { State.reset with sp := 0x2400, flags := fl 0 0 0 1 0 } []
    steps s { s with pc := 0x0103 } = true := by decide

/-- K39 (R217): CC taken. -/
theorem test_cc_K39 :
    let s := start 0x0100 [0xDC, 0x00, 0x02] { State.reset with sp := 0x2400, flags := fl 0 0 0 1 0 } []
    steps s (store { s with sp := 0x23FE, pc := 0x0200 } [(0x23FE, 0x03), (0x23FF, 0x01)]) = true := by decide

/-- K40 (R217): CC not taken. -/
theorem test_cc_K40 :
    let s := start 0x0100 [0xDC, 0x00, 0x02] { State.reset with sp := 0x2400, flags := fl 0 0 0 0 0 } []
    steps s { s with pc := 0x0103 } = true := by decide

/-- K41 (R218): CPO taken. -/
theorem test_cpo_K41 :
    let s := start 0x0100 [0xE4, 0x00, 0x02] { State.reset with sp := 0x2400, flags := fl 0 0 0 0 0 } []
    steps s (store { s with sp := 0x23FE, pc := 0x0200 } [(0x23FE, 0x03), (0x23FF, 0x01)]) = true := by decide

/-- K42 (R218): CPO not taken. -/
theorem test_cpo_K42 :
    let s := start 0x0100 [0xE4, 0x00, 0x02] { State.reset with sp := 0x2400, flags := fl 0 0 1 0 0 } []
    steps s { s with pc := 0x0103 } = true := by decide

/-- K43 (R219): CPE taken. -/
theorem test_cpe_K43 :
    let s := start 0x0100 [0xEC, 0x00, 0x02] { State.reset with sp := 0x2400, flags := fl 0 0 1 0 0 } []
    steps s (store { s with sp := 0x23FE, pc := 0x0200 } [(0x23FE, 0x03), (0x23FF, 0x01)]) = true := by decide

/-- K44 (R219): CPE not taken. -/
theorem test_cpe_K44 :
    let s := start 0x0100 [0xEC, 0x00, 0x02] { State.reset with sp := 0x2400, flags := fl 0 0 0 0 0 } []
    steps s { s with pc := 0x0103 } = true := by decide

/-- K45 (R220): CP taken. -/
theorem test_cp_K45 :
    let s := start 0x0100 [0xF4, 0x00, 0x02] { State.reset with sp := 0x2400, flags := fl 0 0 0 0 0 } []
    steps s (store { s with sp := 0x23FE, pc := 0x0200 } [(0x23FE, 0x03), (0x23FF, 0x01)]) = true := by decide

/-- K46 (R220): CP not taken. -/
theorem test_cp_K46 :
    let s := start 0x0100 [0xF4, 0x00, 0x02] { State.reset with sp := 0x2400, flags := fl 0 1 0 0 0 } []
    steps s { s with pc := 0x0103 } = true := by decide

/-- K47 (R221): CM taken. -/
theorem test_cm_K47 :
    let s := start 0x0100 [0xFC, 0x00, 0x02] { State.reset with sp := 0x2400, flags := fl 0 1 0 0 0 } []
    steps s (store { s with sp := 0x23FE, pc := 0x0200 } [(0x23FE, 0x03), (0x23FF, 0x01)]) = true := by decide

/-- K48 (R221): CM not taken. -/
theorem test_cm_K48 :
    let s := start 0x0100 [0xFC, 0x00, 0x02] { State.reset with sp := 0x2400, flags := fl 0 0 0 0 0 } []
    steps s { s with pc := 0x0103 } = true := by decide

/-- K49 (R222): RET. -/
theorem test_ret_K49 :
    let s := start 0x0200 [0xC9] { State.reset with sp := 0x23FE } [(0x23FE, 0x03), (0x23FF, 0x01)]
    steps s { s with sp := 0x2400, pc := 0x0103 } = true := by decide

/-- K50 (R222): RET: pop wraps: low from 0xFFFF, high from 0x0000. -/
theorem test_ret_K50 :
    let s := start 0x0200 [0xC9] { State.reset with sp := 0xFFFF } [(0xFFFF, 0x78), (0x0000, 0x56)]
    steps s { s with sp := 0x0001, pc := 0x5678 } = true := by decide

/-- K51 (R223): RNZ taken. -/
theorem test_rnz_K51 :
    let s := start 0x0200 [0xC0] { State.reset with sp := 0x23FE, flags := fl 0 0 0 0 0 }
      [(0x23FE, 0x03), (0x23FF, 0x01)]
    steps s { s with sp := 0x2400, pc := 0x0103 } = true := by decide

/-- K52 (R223): RNZ not taken. -/
theorem test_rnz_K52 :
    let s := start 0x0200 [0xC0] { State.reset with sp := 0x23FE, flags := fl 1 0 0 0 0 }
      [(0x23FE, 0x03), (0x23FF, 0x01)]
    steps s { s with pc := 0x0201 } = true := by decide

/-- K53 (R224): RZ taken. -/
theorem test_rz_K53 :
    let s := start 0x0200 [0xC8] { State.reset with sp := 0x23FE, flags := fl 1 0 0 0 0 }
      [(0x23FE, 0x03), (0x23FF, 0x01)]
    steps s { s with sp := 0x2400, pc := 0x0103 } = true := by decide

/-- K54 (R224): RZ not taken. -/
theorem test_rz_K54 :
    let s := start 0x0200 [0xC8] { State.reset with sp := 0x23FE, flags := fl 0 0 0 0 0 }
      [(0x23FE, 0x03), (0x23FF, 0x01)]
    steps s { s with pc := 0x0201 } = true := by decide

/-- K55 (R225): RNC taken. -/
theorem test_rnc_K55 :
    let s := start 0x0200 [0xD0] { State.reset with sp := 0x23FE, flags := fl 0 0 0 0 0 }
      [(0x23FE, 0x03), (0x23FF, 0x01)]
    steps s { s with sp := 0x2400, pc := 0x0103 } = true := by decide

/-- K56 (R225): RNC not taken. -/
theorem test_rnc_K56 :
    let s := start 0x0200 [0xD0] { State.reset with sp := 0x23FE, flags := fl 0 0 0 1 0 }
      [(0x23FE, 0x03), (0x23FF, 0x01)]
    steps s { s with pc := 0x0201 } = true := by decide

/-- K57 (R226): RC taken. -/
theorem test_rc_K57 :
    let s := start 0x0200 [0xD8] { State.reset with sp := 0x23FE, flags := fl 0 0 0 1 0 }
      [(0x23FE, 0x03), (0x23FF, 0x01)]
    steps s { s with sp := 0x2400, pc := 0x0103 } = true := by decide

/-- K58 (R226): RC not taken. -/
theorem test_rc_K58 :
    let s := start 0x0200 [0xD8] { State.reset with sp := 0x23FE, flags := fl 0 0 0 0 0 }
      [(0x23FE, 0x03), (0x23FF, 0x01)]
    steps s { s with pc := 0x0201 } = true := by decide

/-- K59 (R227): RPO taken. -/
theorem test_rpo_K59 :
    let s := start 0x0200 [0xE0] { State.reset with sp := 0x23FE, flags := fl 0 0 0 0 0 }
      [(0x23FE, 0x03), (0x23FF, 0x01)]
    steps s { s with sp := 0x2400, pc := 0x0103 } = true := by decide

/-- K60 (R227): RPO not taken. -/
theorem test_rpo_K60 :
    let s := start 0x0200 [0xE0] { State.reset with sp := 0x23FE, flags := fl 0 0 1 0 0 }
      [(0x23FE, 0x03), (0x23FF, 0x01)]
    steps s { s with pc := 0x0201 } = true := by decide

/-- K61 (R228): RPE taken. -/
theorem test_rpe_K61 :
    let s := start 0x0200 [0xE8] { State.reset with sp := 0x23FE, flags := fl 0 0 1 0 0 }
      [(0x23FE, 0x03), (0x23FF, 0x01)]
    steps s { s with sp := 0x2400, pc := 0x0103 } = true := by decide

/-- K62 (R228): RPE not taken. -/
theorem test_rpe_K62 :
    let s := start 0x0200 [0xE8] { State.reset with sp := 0x23FE, flags := fl 0 0 0 0 0 }
      [(0x23FE, 0x03), (0x23FF, 0x01)]
    steps s { s with pc := 0x0201 } = true := by decide

/-- K63 (R229): RP taken. -/
theorem test_rp_K63 :
    let s := start 0x0200 [0xF0] { State.reset with sp := 0x23FE, flags := fl 0 0 0 0 0 }
      [(0x23FE, 0x03), (0x23FF, 0x01)]
    steps s { s with sp := 0x2400, pc := 0x0103 } = true := by decide

/-- K64 (R229): RP not taken. -/
theorem test_rp_K64 :
    let s := start 0x0200 [0xF0] { State.reset with sp := 0x23FE, flags := fl 0 1 0 0 0 }
      [(0x23FE, 0x03), (0x23FF, 0x01)]
    steps s { s with pc := 0x0201 } = true := by decide

/-- K65 (R230): RM taken. -/
theorem test_rm_K65 :
    let s := start 0x0200 [0xF8] { State.reset with sp := 0x23FE, flags := fl 0 1 0 0 0 }
      [(0x23FE, 0x03), (0x23FF, 0x01)]
    steps s { s with sp := 0x2400, pc := 0x0103 } = true := by decide

/-- K66 (R230): RM not taken. -/
theorem test_rm_K66 :
    let s := start 0x0200 [0xF8] { State.reset with sp := 0x23FE, flags := fl 0 0 0 0 0 }
      [(0x23FE, 0x03), (0x23FF, 0x01)]
    steps s { s with pc := 0x0201 } = true := by decide

/-- K67 (R232): PCHL. -/
theorem test_pchl_K67 :
    let s := start 0x0100 [0xE9] { State.reset with h := 0x1A, l := 0x00 } []
    steps s { s with pc := 0x1A00 } = true := by decide

/-- G1 (R251): PUSH B. -/
theorem test_push_G1 :
    let s := start 0x0100 [0xC5] { State.reset with b := 0x12, c := 0x34, sp := 0x2400 } []
    steps s (store { s with sp := 0x23FE, pc := 0x0101 } [(0x23FE, 0x34), (0x23FF, 0x12)]) = true := by decide

/-- G4 (R251): PUSH B: SP at its reset value: cells 0xFFFF and 0xFFFE. -/
theorem test_push_G4 :
    let s := start 0x0100 [0xC5] { State.reset with b := 0x12, c := 0x34, sp := 0x0000 } []
    steps s (store { s with sp := 0xFFFE, pc := 0x0101 } [(0xFFFE, 0x34), (0xFFFF, 0x12)]) = true := by decide

/-- G6 (R252): POP D. -/
theorem test_pop_G6 :
    let s := start 0x0100 [0xD1] { State.reset with sp := 0x23FE } [(0x23FE, 0x34), (0x23FF, 0x12)]
    steps s { s with d := 0x12, e := 0x34, sp := 0x2400, pc := 0x0101 } = true := by decide

/-- G7 (R252): POP H: pop wraps. -/
theorem test_pop_G7 :
    let s := start 0x0100 [0xE1] { State.reset with sp := 0xFFFF } [(0xFFFF, 0x11), (0x0000, 0x22)]
    steps s { s with h := 0x22, l := 0x11, sp := 0x0001, pc := 0x0101 } = true := by decide

/-- G9 (R256): PUSH PSW: F = 0x0C. -/
theorem test_push_G9 :
    let s := start 0x0100 [0xF5] { State.reset with sp := 0x2000, a := 0x40, flags := fl 0 0 1 1 0 } []
    steps s (store { s with sp := 0x1FFE, pc := 0x0101 } [(0x1FFE, 0x0C), (0x1FFF, 0x40)]) = true := by decide

/-- G10 (R256): PUSH PSW: F = 0x1F, the largest value. -/
theorem test_push_G10 :
    let s := start 0x0100 [0xF5] { State.reset with sp := 0x2000, a := 0xFF, flags := allFlags } []
    steps s (store { s with sp := 0x1FFE, pc := 0x0101 } [(0x1FFE, 0x1F), (0x1FFF, 0xFF)]) = true := by decide

/-- G13 (R257): POP PSW: bits 7:5 dropped. -/
theorem test_pop_G13 :
    let s := start 0x0100 [0xF1] { State.reset with sp := 0x1FFE } [(0x1FFE, 0xFF), (0x1FFF, 0x3C)]
    steps s { s with a := 0x3C, sp := 0x2000, pc := 0x0101, flags := fl 1 1 1 1 1 } = true := by decide

/-- G14 (R257): POP PSW: F = 0x08: only CY set afterwards. -/
theorem test_pop_G14 :
    let s := start 0x0100 [0xF1] { State.reset with sp := 0x1FFE, flags := fl 1 1 1 0 1 }
      [(0x1FFE, 0x08), (0x1FFF, 0x00)]
    steps s { s with sp := 0x2000, pc := 0x0101, flags := fl 0 0 0 1 0 } = true := by decide

/-- G17 (R258): XTHL. -/
theorem test_xthl_G17 :
    let s := start 0x0100 [0xE3] { State.reset with h := 0x0B, l := 0x3C, sp := 0x10AD }
      [(0x10AD, 0xF0), (0x10AE, 0x0D)]
    steps s (store { s with h := 0x0D, l := 0xF0, pc := 0x0101 } [(0x10AD, 0x3C), (0x10AE, 0x0B)]) = true := by decide

/-- G18 (R258): XTHL wraps: L with 0xFFFF, H with 0x0000. -/
theorem test_xthl_G18 :
    let s := start 0x0100 [0xE3] { State.reset with h := 0x12, l := 0x34, sp := 0xFFFF }
      [(0xFFFF, 0xAA), (0x0000, 0xBB)]
    steps s (store { s with h := 0xBB, l := 0xAA, pc := 0x0101 } [(0x0000, 0x12), (0xFFFF, 0x34)]) = true := by decide

/-- G19 (R259): SPHL. -/
theorem test_sphl_G19 :
    let s := start 0x0100 [0xF9] { State.reset with h := 0x50, l := 0x6C } []
    steps s { s with sp := 0x506C, pc := 0x0101 } = true := by decide

/-- Q2 (R271): NOP: PC wraps to 0x0000. -/
theorem test_nop_Q2 :
    let s := start 0xFFFF [0x00] State.reset []
    steps s { s with pc := 0x0000 } = true := by decide

/-- Q3 (R272): XCHG. -/
theorem test_xchg_Q3 :
    let s := start 0x0000 [0xEB] { State.reset with d := 0x33, e := 0x55, h := 0x00, l := 0xFF, flags := allFlags } []
    steps s { s with d := 0x00, e := 0xFF, h := 0x33, l := 0x55, pc := 0x0001 } = true := by decide

/-- Q4 (R273): CMA. -/
theorem test_cma_Q4 :
    let s := start 0x0000 [0x2F] { State.reset with a := 0x51 } []
    steps s { s with a := 0xAE, pc := 0x0001 } = true := by decide

/-- Q5 (R273): CMA: A becomes 0 and Z is not written. -/
theorem test_cma_Q5 :
    let s := start 0x0000 [0x2F] { State.reset with a := 0xFF, flags := fl 0 0 0 0 0 } []
    steps s { s with a := 0x00, pc := 0x0001 } = true := by decide

/-- Q6 (R274): CMC. -/
theorem test_cmc_Q6 :
    let s := start 0x0000 [0x3F] { State.reset with flags := fl 0 0 0 1 0 } []
    steps s { s with pc := 0x0001, flags := fl 0 0 0 0 0 } = true := by decide

/-- Q7 (R274): CMC. -/
theorem test_cmc_Q7 :
    let s := start 0x0000 [0x3F] { State.reset with flags := fl 0 0 0 0 0 } []
    steps s { s with pc := 0x0001, flags := fl 0 0 0 1 0 } = true := by decide

/-- Q8 (R278): STC. -/
theorem test_stc_Q8 :
    let s := start 0x0000 [0x37] { State.reset with flags := fl 0 0 0 0 0 } []
    steps s { s with pc := 0x0001, flags := fl 0 0 0 1 0 } = true := by decide

/-- Q9 (R278): STC: already 1. -/
theorem test_stc_Q9 :
    let s := start 0x0000 [0x37] { State.reset with flags := fl 0 0 0 1 0 } []
    steps s { s with pc := 0x0001 } = true := by decide

/-- Q10 (R275): DI. -/
theorem test_di_Q10 :
    let s := start 0x0000 [0xF3] { State.reset with inte := true, irqs := [none] } []
    steps s { s with pc := 0x0001, inte := false, irqs := [], choices := 1 } = true := by decide

/-- Q12 (R276): EI. -/
theorem test_ei_Q12 :
    let s := start 0x0000 [0xFB] { State.reset with inte := false } []
    steps s { s with pc := 0x0001, inte := true } = true := by decide

/-- Q14 (R277): HLT: HALTED=1; PC is the address after HLT; INTE kept. -/
theorem test_hlt_Q14 :
    let s := start 0x0005 [0x76] { State.reset with inte := true, irqs := [none] } []
    steps s { s with pc := 0x0006, halted := true, irqs := [], choices := 1 } = true := by decide

/-- Q15 (R292): IN 0x03: draw: PortRead(3) = 0x5A; no flag changes. -/
theorem test_in_Q15 :
    let s := start 0x0000 [0xDB, 0x03] { State.reset with a := 0x11, flags := allFlags, portIn := [0x5A] } []
    steps s { s with a := 0x5A, pc := 0x0002, portIn := [], draws := 1 } = true := by decide

/-- Q16 (R292): IN 0xFF: draw: PortRead(255) = 0x00; Z not written. -/
theorem test_in_Q16 :
    let s := start 0x0000 [0xDB, 0xFF] { State.reset with a := 0x11, flags := fl 0 0 0 0 0, portIn := [0x00] } []
    steps s { s with a := 0x00, pc := 0x0002, portIn := [], draws := 1 } = true := by decide

/-- Q17 (R293): OUT 0x02. -/
theorem test_out_Q17 :
    let s := start 0x0000 [0xD3, 0x02] { State.reset with a := 0x04, flags := allFlags } []
    steps s { s with pc := 0x0002, portOut := [(2, 0x04)] } = true := by decide

/-- Q18 (R293): OUT 0x00. -/
theorem test_out_Q18 :
    let s := start 0x0000 [0xD3, 0x00] { State.reset with a := 0xFF } []
    steps s { s with pc := 0x0002, portOut := [(0, 0xFF)] } = true := by decide

/-- X1 (R300, R301): 0x27 faults. -/
theorem test_fault_X1 :
    let s := start 0x0100 [0x27, 0x34, 0x12]
      { State.reset with a := 0x19, sp := 0x2400, inte := true, irqs := [none] } []
    steps s { s with fault := true, record := ⟨.unimplementedInstruction, 0x27, 0x0100⟩, irqs := [], choices := 1 } =
      true := by decide

/-- X2 (R300, R302): 0x08 faults. -/
theorem test_fault_X2 :
    let s := start 0x0100 [0x08, 0x34, 0x12]
      { State.reset with a := 0x19, sp := 0x2400, inte := true, irqs := [none] } []
    steps s { s with fault := true, record := ⟨.unimplementedInstruction, 0x08, 0x0100⟩, irqs := [], choices := 1 } =
      true := by decide

/-- X8 (R300, R302): 0x38 faults. -/
theorem test_fault_X8 :
    let s := start 0x0100 [0x38, 0x34, 0x12]
      { State.reset with a := 0x19, sp := 0x2400, inte := true, irqs := [none] } []
    steps s { s with fault := true, record := ⟨.unimplementedInstruction, 0x38, 0x0100⟩, irqs := [], choices := 1 } =
      true := by decide

/-- X9 (R300, R303): 0xCB faults. -/
theorem test_fault_X9 :
    let s := start 0x0100 [0xCB, 0x34, 0x12]
      { State.reset with a := 0x19, sp := 0x2400, inte := true, irqs := [none] } []
    steps s { s with fault := true, record := ⟨.unimplementedInstruction, 0xCB, 0x0100⟩, irqs := [], choices := 1 } =
      true := by decide

/-- X10 (R300, R304): 0xD9 faults. -/
theorem test_fault_X10 :
    let s := start 0x0100 [0xD9, 0x34, 0x12]
      { State.reset with a := 0x19, sp := 0x2400, inte := true, irqs := [none] } []
    steps s { s with fault := true, record := ⟨.unimplementedInstruction, 0xD9, 0x0100⟩, irqs := [], choices := 1 } =
      true := by decide

/-- X11 (R300, R305): 0xDD faults. -/
theorem test_fault_X11 :
    let s := start 0x0100 [0xDD, 0x34, 0x12]
      { State.reset with a := 0x19, sp := 0x2400, inte := true, irqs := [none] } []
    steps s { s with fault := true, record := ⟨.unimplementedInstruction, 0xDD, 0x0100⟩, irqs := [], choices := 1 } =
      true := by decide

/-- X13 (R300, R305): 0xFD faults. -/
theorem test_fault_X13 :
    let s := start 0x0100 [0xFD, 0x34, 0x12]
      { State.reset with a := 0x19, sp := 0x2400, inte := true, irqs := [none] } []
    steps s { s with fault := true, record := ⟨.unimplementedInstruction, 0xFD, 0x0100⟩, irqs := [], choices := 1 } =
      true := by decide

/-! ### Interrupts, 95_test_vectors.md section 3.2 -/

/-- The start of Y1 to Y8. -/
def boundary (sp : Word) (irqs : List (Option VectorIndex)) : State :=
  { State.reset with pc := 0x1A2B, sp := sp, inte := true, a := 0x77, flags := fl 1 0 0 1 0, irqs := irqs }

/-- Y2: vector 1. -/
theorem test_interrupt_Y2 :
    let s := boundary 0x2400 [some 1, none]
    steps s (store { s with sp := 0x23FE, pc := 0x0008, inte := false, irqs := [none], choices := 1 }
      [(0x23FE, 0x2B), (0x23FF, 0x1A)]) = true := by decide

/-- Y9: vector 2, the push wraps. -/
theorem test_interrupt_Y9 :
    let s := boundary 0x0001 [some 2]
    steps s (store { s with sp := 0xFFFF, pc := 0x0010, inte := false, irqs := [], choices := 1 }
      [(0x0000, 0x1A), (0xFFFF, 0x2B)]) = true := by decide

/-- A boundary at which no request is made uses up that choice and runs the instruction (60_exceptions.md R317). -/
theorem test_interrupt_none_at_this_boundary :
    let s := boundary 0x2400 [none, some 1]
    steps s { s with pc := 0x1A2C, irqs := [some 1], choices := 1 } = true := by decide

/-- With INTE 0 no choice is used up (R315). -/
theorem test_interrupt_disabled :
    let s := { boundary 0x2400 [some 1] with inte := false }
    steps s { s with pc := 0x1A2C } = true := by decide

/-- Past the choices listed the source's choice is free, and a fresh one at each boundary (R317). -/
theorem test_interrupt_free_choice (k : Nat) :
    ({ boundary 0x2400 [] with choices := k } : State).request = Config.interruptChoice k := rfl

/-- An `EI_DELAY` of 1 would put the first acceptance one instruction later (46_misc.md R276); it is 0 here. -/
theorem test_ei_delay :
    ((boundary 0x2400 [some 1]).delayRequests 1).request = none ∧
      ((boundary 0x2400 [some 1]).delayRequests 1).afterRequest.request = some 1 ∧
      Config.hardware.eiDelay = 0 := by decide

/-- While HALTED is 1 no interrupt is accepted, whatever INTE holds (R320). -/
theorem test_interrupt_halted :
    stops { boundary 0x2400 [some 1] with halted := true } .halted = true := by decide

/-- After the fault the executor has no step (R310). -/
theorem test_fault_ends_the_run : stops { State.reset with fault := true, halted := true } .faulted = true := by decide

/-! ### Reset, the load, and placing a word to fetch -/

/-- The reset state is where 70_reset_and_hazards.md R350 says, with nothing listed in memory. -/
theorem test_reset :
    State.reset.pc = 0x0000 ∧ State.reset.sp = 0x0000 ∧ State.reset.mem = [] ∧ State.reset.inte = false := by decide

/-- An empty memory runs NOP (46_misc.md R271). -/
theorem test_reset_runs_nop : steps State.reset { State.reset with pc := 0x0001 } = true := by decide

theorem test_withFetchWord_adi :
    steps (State.reset.withFetchWord 16 0x42C6)
      (store { State.reset with a := 0x42, pc := 0x0002, flags := fl 0 0 1 0 0 }
        [(0x0000, 0xC6), (0x0001, 0x42)]) = true := by decide

/-- A request pending at the boundary would come before the fetch, so it is withdrawn. -/
theorem test_withFetchWord_withdraws_the_request :
    ((boundary 0x2400 [some 1]).withFetchWord 8 0x76).request = none := by decide

/-! ### The flag unit under the other parameter values, 95_test_vectors.md section 2.10 -/

/-- V2: with `SUB_BORROW_FLAG` 0 a borrow clears Carry. -/
theorem test_subBorrowFlag_V2 :
    (Flags.afterSub { Config.hardware with subBorrowFlag := false } allFlags 0x00 0x01 false).cy = false := by decide

/-- V4: with `SUB_BORROW_FLAG` 0, CY 0 means a borrow is pending. -/
theorem test_subBorrowFlag_V4 :
    Flags.borrowIn { Config.hardware with subBorrowFlag := false } (fl 0 0 0 0 0) = true := by decide

/-- V8: with `LOGIC_CLEARS_CY` XRA A clears Carry. -/
theorem test_logicClearsCy_V8 :
    (Flags.afterLogic { Config.hardware with logicClearsCy := true } allFlags 0x00).cy = false := by decide

/-! ### Witnesses: states and operands that meet the hypotheses of the obligations -/

theorem test_witness_DecodeOfEncodeIsTheInstruction :
    Instr.WellFormed (.undoc00 7) = true ∧ Instr.WellFormed (.undocXD 1) = true ∧
      Instr.WellFormed (.jmp 0xFFFF) = true := by decide

theorem test_witness_EncodeOfDecodeIsTheBytes : decode [0x3A, 0xFF, 0x00, 0x76] = .ok (.lda 0x00FF, [0x76]) := by rfl

theorem test_witness_OpcodeByteFixesTheLength :
    decode [0xC9, 0x01] = .ok (.ret, [0x01]) ∧ decode [0xD3, 0x01] = .ok (.outp 0x01, []) ∧
      decode [0xCD, 0x01, 0x02] = .ok (.call 0x0201, []) := ⟨rfl, rfl, rfl⟩

theorem test_witness_FaultingRowsAreTheThirteenBytes :
    decode [0xFD, 0x01] = .ok (.undocXD 3, [0x01]) ∧ decode [0xCD, 0x01, 0x02] = .ok (.call 0x0201, []) ∧
      decode [0x08] = .ok (.undoc00 1, []) ∧ decode [0x00] = .ok (.nop, []) := ⟨rfl, rfl, rfl, rfl⟩

/-- A state about to fetch `CALL 0x0200` from 0xFFFE, with no request at this boundary. -/
def aboutToCall : State := start 0xFFFE [0xCD, 0x00, 0x02] { State.reset with inte := true, irqs := [none, some 7] } []

theorem test_witness_StepRunsTheDecodedInstruction :
    aboutToCall.fault = false ∧ aboutToCall.halted = false ∧ aboutToCall.request = none ∧
      decodesTo [aboutToCall.readByte aboutToCall.pc, aboutToCall.readByte (aboutToCall.pc + 1),
        aboutToCall.readByte (aboutToCall.pc + 2)] (.call 0x0200) = true := by decide

theorem test_witness_StepCompletesExactlyWhileRunning :
    State.reset.fault = false ∧ State.reset.halted = false ∧
      { State.reset with fault := true, halted := true }.fault = true ∧
      { State.reset with halted := true }.fault = false ∧ { State.reset with halted := true }.halted = true := by decide

theorem test_witness_InterruptAcceptancePushesAndVectors :
    let s := boundary 0x0000 [some 7, some 0]
    s.halted = false ∧ s.fault = false ∧ s.request = some 7 ∧ s.afterRequest.request = some 0 := by decide

theorem test_witness_DisabledCoreIgnoresTheInterruptSource : State.reset.inte = false := by decide

/-- A state about to fetch a faulting byte. -/
def aboutToFault : State := start 0xFFFF [0xED] State.reset []

theorem test_witness_FaultingByteRaisesTheException :
    aboutToFault.fault = false ∧ aboutToFault.halted = false ∧ aboutToFault.request = none ∧
      aboutToFault.readByte aboutToFault.pc ∈ faultingBytes := by decide

theorem test_witness_FaultingRowsTakeTheException :
    (1 : Fin 8) ≠ 0 ∧ (7 : Fin 8) ≠ 0 ∧ (1 : Fin 4) ≠ 0 ∧ (3 : Fin 4) ≠ 0 := by decide

theorem test_witness_StepKeepsMemoryCanonical :
    aboutToCall.memCanonical = true ∧
      steps aboutToCall (store { aboutToCall with pc := 0x0200, sp := 0xFFFE, irqs := [some 7], choices := 1 }
        [(0xFFFF, 0x00), (0xFFFE, 0x01)]) = true := by decide

theorem test_witness_StepKeepsTheFaultRecorded :
    aboutToFault.faultRecorded = true ∧ aboutToFault.oneEnd = true ∧
      steps aboutToFault
        { aboutToFault with fault := true, record := ⟨.unimplementedInstruction, 0xED, 0xFFFF⟩ } = true ∧
      State.Inv { aboutToFault with fault := true, record := ⟨.unimplementedInstruction, 0xED, 0xFFFF⟩ } = true := by
  decide

theorem test_witness_LoadPlacesTheImage :
    (0xFFFF : Word).toNat + [(0x76 : Byte)].length ≤ 65536 ∧ 0 < [(0x76 : Byte)].length ∧
      ((0xFFFE : Word).toNat < (0xFFFF : Word).toNat ∨ (0xFFFF : Word).toNat + 1 ≤ (0xFFFE : Word).toNat) ∧
      65536 < (0xFFFF : Word).toNat + [(0x76 : Byte), 0x76].length := by decide

theorem test_witness_FlagsAreWrittenOnlyAsTabled :
    execs .nop State.reset { State.reset with pc := 0x0001 } = true ∧ writesZsp .nop = false ∧
      writesCarry .nop = false ∧ Instr.nop ≠ .popPsw := by decide

theorem test_witness_AuxiliaryCarryIsReadOnlyByPushPsw :
    Instr.stc ≠ .pushPsw ∧
      execs .stc State.reset { State.reset with pc := 1, flags := fl 0 0 0 1 0 } = true ∧
      Instr.popPsw ≠ .pushPsw ∧ execs .popPsw State.reset { State.reset with pc := 1, sp := 2 } = true := by decide

theorem test_witness_RegistersAreWrittenOnlyAsNamed :
    execs .cma State.reset { State.reset with a := 0xFF, pc := 1 } = true ∧ Reg.B ∉ writtenRegs .cma := by decide

theorem test_witness_StackPointerIsWrittenOnlyByItsList :
    execs (.cz 0x0200) State.reset { State.reset with pc := 3 } = true ∧
      writesSp State.reset.flags (.cz 0x0200) = false := by decide

theorem test_witness_ControlBitsAreWrittenOnlyByTheirInstructions :
    execs .nop State.reset { State.reset with pc := 1 } = true ∧ Instr.nop ≠ .ei ∧ Instr.nop ≠ .di ∧
      Instr.nop ≠ .hlt ∧ isFaultingRow .nop = false := by decide

theorem test_witness_MemoryIsStoredToOnlyAsTabled :
    execs (.rst 1) State.reset (store { State.reset with sp := 0xFFFE, pc := 8 } [(0xFFFE, 0x01)]) = true ∧
      (0x0000 : Word) ∉ storedTo (.rst 1) State.reset ∧ (0xFFFD : Word) ∉ storedTo (.rst 1) State.reset := by decide

theorem test_witness_PortsAreReachedOnlyByInAndOut :
    execs .nop State.reset { State.reset with pc := 1 } = true ∧ (∀ port, Instr.nop ≠ .outp port) ∧
      ∀ port, Instr.nop ≠ .inp port := ⟨by decide, fun _ => nofun, fun _ => nofun⟩

theorem test_witness_ProgramCounterAdvancesByTheLength :
    let s := { State.reset with pc := 0xFFFE }
    execs (.lxi .SP 0x2000) s { s with pc := 1, sp := 0x2000 } = true ∧
      isTransfer (.lxi .SP 0x2000) = false ∧ isFaultingRow (.lxi .SP 0x2000) = false := by decide

/-- The premise `p ≠ SP` of the pair obligations, and the premises of the frames. -/
theorem test_witness_frames : Pair.BC ≠ .SP ∧ Pair.HL ≠ .SP ∧ Reg.A ∉ ([] : List Reg) ∧ Reg.L ∉ [Reg.H] ∧
    (0xFFFF : Word) ∉ [(0x0000 : Word), 0xFFFE] := by decide

/-- The state a call leaves is itself one RET may be run in. -/
theorem test_witness_ReturnUndoesACall :
    let t := State.reset.callTo 0x0200
    ∃ u : State, u.sp = t.sp ∧ u.readByte t.sp = t.readByte t.sp ∧ u.readByte (t.sp + 1) = t.readByte (t.sp + 1) :=
  ⟨_, rfl, rfl, rfl⟩

theorem test_witness_InterruptEnableIsWrittenAtOnce :
    let s := { State.reset with irqs := [some 0, none] }
    s.halted = false ∧ s.fault = false ∧ execs .ei s { s with pc := 1, inte := true } = true ∧
      { s with pc := 1, inte := true }.request = some 0 := by decide

theorem test_witness_HltEndsTheRun : State.reset.fault = false := by decide

end Sys2Proof.Tests
end

section
/-! SUPPORT. What a step answers, one equation per branch of 00_scope.md R15; then the obligations O7 and O6, which say
when a step completes and which instruction it runs. -/

namespace Sys2Proof.Machine

/-! ### The branches of a step -/

/-- Every arm of `exec` ends in a next state: no implemented instruction and no faulting byte stops the executor
(60_exceptions.md R312). -/
theorem exec_completes (i : Instr) (s : State) : ∃ t, exec i s = .next t := by
  cases i <;> exact ⟨_, rfl⟩

theorem executorStep_completes (s : State) : ∃ t, s.executorStep = .next t := by
  obtain ⟨i, -, hi⟩ := executorStep_eq_exec s
  rw [hi]
  exact exec_completes i s

theorem step_of_fault {s : State} (hf : s.fault = true) : step s = .fault .faulted := by
  simp [step, hf]

theorem step_of_halted {s : State} (hf : s.fault = false) (hh : s.halted = true) : step s = .fault .halted := by
  simp [step, hf, hh]

theorem step_of_request {s : State} {n : VectorIndex} (hf : s.fault = false) (hh : s.halted = false)
    (hr : s.request = some n) : step s = .next (s.afterRequest.acceptInterrupt n) := by
  simp [step, hf, hh, hr]

theorem step_of_no_request {s : State} (hf : s.fault = false) (hh : s.halted = false) (hr : s.request = none) :
    step s = s.afterRequest.executorStep := by
  simp [step, hf, hh, hr]

/-- A running machine has a step, whatever the interrupt source chooses. -/
theorem step_completes {s : State} (hf : s.fault = false) (hh : s.halted = false) : ∃ t, step s = .next t := by
  cases hr : s.request with
  | some n => exact ⟨_, step_of_request hf hh hr⟩
  | none =>
    rw [step_of_no_request hf hh hr]
    exact executorStep_completes _

/-! ### The instruction decoded at PC -/

/-- The fetch reads no further than the three bytes from PC on (30_encoding.md R80). -/
theorem State.fetch_append (s : State) :
    ∃ more, s.fetch ++ more = [s.readByte s.pc, s.readByte (s.pc + 1), s.readByte (s.pc + 2)] :=
  ⟨_, by rw [State.fetch_eq, List.cons_append, List.take_append_drop]⟩

/-- What the three bytes from PC on decode to is what is fetched and run: the bytes after an instruction do not change
how it decodes. -/
theorem executorStep_of_decode {s : State} {i : Instr} {rest : List Byte}
    (h : decode [s.readByte s.pc, s.readByte (s.pc + 1), s.readByte (s.pc + 2)] = .ok (i, rest)) :
    s.executorStep = exec i s := by
  obtain ⟨j, hj, hstep⟩ := executorStep_eq_exec s
  obtain ⟨more, hmore⟩ := s.fetch_append
  have hdecode := decode_append hj more
  rw [hmore, h] at hdecode
  cases hdecode
  exact hstep

@[simp] theorem State.readByte_afterRequest (s : State) (x : Word) : s.afterRequest.readByte x = s.readByte x :=
  State.readByte_congr s.afterRequest_mem x

theorem State.afterRequest_eq (s : State) :
    s.afterRequest = { s with
      irqs := if s.inte then s.irqs.tail else s.irqs, choices := if s.inte then s.choices + 1 else s.choices } := by
  unfold State.afterRequest
  split <;> rfl

/-! ### The obligations -/

/-- Settles O7: each branch of `step` is one clause, and the branch of the running machine always completes. -/
theorem stepCompletesExactlyWhileRunning : Obligations.StepCompletesExactlyWhileRunning :=
  fun _ => ⟨step_completes, step_of_fault, step_of_halted⟩

/-- Settles O6: using up the source's choice leaves PC and memory alone, so the executor fetches and decodes the same
bytes after it. -/
theorem stepRunsTheDecodedInstruction : Obligations.StepRunsTheDecodedInstruction := by
  intro s i rest hf hh hr hdecode
  refine ⟨?_, s.afterRequest_eq⟩
  rw [step_of_no_request hf hh hr]
  exact executorStep_of_decode (by simpa using hdecode)

end Sys2Proof.Machine
end

section
/-! SUPPORT. What an instruction may write and what it carries along: every instruction that does not fault is a row of
permitted writes (`exec_cases`), and the frames of 10_state.md follow by induction over them; then AC, the register
pairs and the bytes that fault. With them the obligations O17 to O21, O24, O25 and O13. -/

namespace Sys2Proof.Machine

open Sys2Proof.Spec

/-! ### What an instruction writes -/

/-- The flags `g` are the flags `f` but for those the table of 10_state.md R28 lets the instruction write. -/
def FlagsKept (i : Instr) (f g : Flags) : Prop :=
  (writesZsp i = false → g.z = f.z ∧ g.s = f.s ∧ g.p = f.p) ∧
    (writesCarry i = false → g.cy = f.cy) ∧ (i ≠ .popPsw → g.ac = f.ac)

/-- One write that the tables of `Spec` list for the instruction `i` in the state `s`, from `t` to `u`. -/
def WritesOnce (i : Instr) (s t u : State) : Prop :=
  (∃ r ∈ writtenRegs i, ∃ v, u = t.setReg r v) ∨
  (writesSp s.flags i = true ∧ ∃ w, u = t.setSP w) ∨
  (isTransfer i = true ∧ ∃ w, u = t.setPC w) ∨
  (∃ f, FlagsKept i t.flags f ∧ u = t.setFlags f) ∨
  (∃ x ∈ storedTo i s, ∃ v, u = t.writeByte x v) ∨
  ((i = .ei ∨ i = .di) ∧ ∃ v, u = t.setInte v) ∨
  (i = .hlt ∧ u = { t with halted := true }) ∨
  (∃ port, i = .inp port ∧ u = t.afterPortRead) ∨
  (∃ port v, i = .outp port ∧ u = t.portWrite port v)

/-- Listed writes lead from `s`, in which PC is the next address, to `t`. An instruction that does not fault is such a
row of writes (`exec_writes`), so what it leaves alone follows by induction over them (`Writes.inductionOn`). -/
def Writes (i : Instr) (s t : State) : Prop := Relation.ReflTransGen (WritesOnce i s) s t

section
variable {i : Instr} {s t : State}

theorem Writes.refl : Writes i s s := Relation.ReflTransGen.refl

theorem Writes.setReg (h : Writes i s t) {r : Reg} (hr : r ∈ writtenRegs i) (v : Byte) : Writes i s (t.setReg r v) :=
  h.tail (.inl ⟨r, hr, v, rfl⟩)

theorem Writes.setSP (h : Writes i s t) (hsp : writesSp s.flags i = true) (w : Word) : Writes i s (t.setSP w) :=
  h.tail (.inr (.inl ⟨hsp, w, rfl⟩))

theorem Writes.setPC (h : Writes i s t) (hpc : isTransfer i = true) (w : Word) : Writes i s (t.setPC w) :=
  h.tail (.inr (.inr (.inl ⟨hpc, w, rfl⟩)))

theorem Writes.setFlags (h : Writes i s t) {f : Flags} (hf : FlagsKept i t.flags f) : Writes i s (t.setFlags f) :=
  h.tail (.inr (.inr (.inr (.inl ⟨f, hf, rfl⟩))))

theorem Writes.writeByte (h : Writes i s t) {x : Word} (hx : x ∈ storedTo i s) (v : Byte) :
    Writes i s (t.writeByte x v) :=
  h.tail (.inr (.inr (.inr (.inr (.inl ⟨x, hx, v, rfl⟩)))))

theorem Writes.setInte (h : Writes i s t) (hi : i = .ei ∨ i = .di) (v : Bool) : Writes i s (t.setInte v) :=
  h.tail (.inr (.inr (.inr (.inr (.inr (.inl ⟨hi, v, rfl⟩))))))

theorem Writes.halt (h : Writes i s t) (hi : i = .hlt) : Writes i s { t with halted := true } :=
  h.tail (.inr (.inr (.inr (.inr (.inr (.inr (.inl ⟨hi, rfl⟩)))))))

theorem Writes.afterPortRead (h : Writes i s t) {port : Byte} (hi : i = .inp port) : Writes i s t.afterPortRead :=
  h.tail (.inr (.inr (.inr (.inr (.inr (.inr (.inr (.inl ⟨port, hi, rfl⟩))))))))

theorem Writes.portWrite (h : Writes i s t) {port : Byte} (hi : i = .outp port) (v : Byte) :
    Writes i s (t.portWrite port v) :=
  h.tail (.inr (.inr (.inr (.inr (.inr (.inr (.inr (.inr ⟨port, v, hi, rfl⟩))))))))

/-- Induction over the writes: what holds at first and is kept by each listed write holds in the end. -/
theorem Writes.inductionOn {motive : ∀ t, Writes i s t → Prop} {t : State} (h : Writes i s t)
    (refl : motive s .refl)
    (setReg : ∀ t h r v (hr : r ∈ writtenRegs i), motive t h → motive (t.setReg r v) (h.setReg hr v))
    (setSP : ∀ t h w (hsp : writesSp s.flags i = true), motive t h → motive (t.setSP w) (h.setSP hsp w))
    (setPC : ∀ t h w (hpc : isTransfer i = true), motive t h → motive (t.setPC w) (h.setPC hpc w))
    (setFlags : ∀ t h f (hf : FlagsKept i t.flags f), motive t h → motive (t.setFlags f) (h.setFlags hf))
    (writeByte : ∀ t h x v (hx : x ∈ storedTo i s), motive t h → motive (t.writeByte x v) (h.writeByte hx v))
    (setInte : ∀ t h v (hi : i = .ei ∨ i = .di), motive t h → motive (t.setInte v) (h.setInte hi v))
    (halt : ∀ t h (hi : i = .hlt), motive t h → motive { t with halted := true } (h.halt hi))
    (afterPortRead : ∀ t h port (hi : i = .inp port), motive t h → motive t.afterPortRead (h.afterPortRead hi))
    (portWrite : ∀ t h port v (hi : i = .outp port), motive t h → motive (t.portWrite port v) (h.portWrite hi v)) :
    motive t h := by
  induction h with
  | refl => exact refl
  | tail _ hu ih =>
    obtain ⟨r, hr, v, rfl⟩ | ⟨hsp, w, rfl⟩ | ⟨hpc, w, rfl⟩ | ⟨f, hf, rfl⟩ | ⟨x, hx, v, rfl⟩ | ⟨hi, v, rfl⟩ |
      ⟨hi, rfl⟩ | ⟨port, hi, rfl⟩ | ⟨port, v, hi, rfl⟩ := hu
    · exact setReg _ _ r v hr ih
    · exact setSP _ _ w hsp ih
    · exact setPC _ _ w hpc ih
    · exact setFlags _ _ f hf ih
    · exact writeByte _ _ x v hx ih
    · exact setInte _ _ v hi ih
    · exact halt _ _ hi ih
    · exact afterPortRead _ _ port hi ih
    · exact portWrite _ _ port v hi ih
end

/-! ### Flags -/

theorem FlagsKept.refl (i : Instr) (f : Flags) : FlagsKept i f f :=
  ⟨fun _ => ⟨rfl, rfl, rfl⟩, fun _ => rfl, fun _ => rfl⟩

theorem FlagsKept.trans {i : Instr} {f g k : Flags} (h : FlagsKept i f g) (h' : FlagsKept i g k) :
    FlagsKept i f k := by
  obtain ⟨hzsp, hcy, hac⟩ := h
  obtain ⟨hzsp', hcy', hac'⟩ := h'
  refine ⟨fun hw => ?_, fun hw => (hcy' hw).trans (hcy hw), fun hw => (hac' hw).trans (hac hw)⟩
  obtain ⟨hz, hs, hp⟩ := hzsp hw
  obtain ⟨hz', hs', hp'⟩ := hzsp' hw
  exact ⟨hz'.trans hz, hs'.trans hs, hp'.trans hp⟩

theorem flagsKept_zsp {i : Instr} (hz : writesZsp i = true) (f : Flags) (res : Byte) : FlagsKept i f (f.zsp res) :=
  ⟨fun h => (nomatch hz.symm.trans h), fun _ => rfl, fun _ => rfl⟩

theorem flagsKept_withCarry {i : Instr} (hc : writesCarry i = true) (f : Flags) (cy : Bool) :
    FlagsKept i f (f.withCarry cy) :=
  ⟨fun _ => ⟨rfl, rfl, rfl⟩, fun h => (nomatch hc.symm.trans h), fun _ => rfl⟩

theorem flagsKept_popPsw (f g : Flags) : FlagsKept .popPsw f g :=
  ⟨nofun, nofun, fun h => absurd rfl h⟩

/-! ### The shared operations as rows of writes -/

section
variable {i : Instr} {s t : State}

theorem Writes.setPair (h : Writes i s t) {p : Pair} (hr : pairRegs p ⊆ writtenRegs i)
    (hsp : p = .SP → writesSp s.flags i = true) (w : Word) : Writes i s (t.setPair p w) := by
  cases p with
  | BC => exact (h.setReg (r := .B) (hr (.head _)) (hiByte w)).setReg (r := .C) (hr (.tail _ (.head _))) (loByte w)
  | DE => exact (h.setReg (r := .D) (hr (.head _)) (hiByte w)).setReg (r := .E) (hr (.tail _ (.head _))) (loByte w)
  | HL => exact (h.setReg (r := .H) (hr (.head _)) (hiByte w)).setReg (r := .L) (hr (.tail _ (.head _))) (loByte w)
  | SP => exact h.setSP (hsp rfl) w

theorem State.setStackPair_eq_setPair (s : State) (p : StackPair) (w : Word) :
    s.setStackPair p w = s.setPair (stackPair p) w := by
  cases p <;> rfl

theorem Writes.addToA (hr : .A ∈ writtenRegs i) (hz : writesZsp i = true) (hc : writesCarry i = true) (v : Byte)
    (cin : Bool) : Writes i s (s.addToA v cin) :=
  (Writes.refl.setReg hr (add8 s.a v cin)).setFlags ((flagsKept_zsp hz _ _).trans (flagsKept_withCarry hc _ _))

theorem Writes.subFromA (hr : .A ∈ writtenRegs i) (hz : writesZsp i = true) (hc : writesCarry i = true) (v : Byte)
    (bin : Bool) : Writes i s (s.subFromA Config.hardware v bin) :=
  (Writes.refl.setReg hr (sub8 s.a v bin)).setFlags ((flagsKept_zsp hz _ _).trans (flagsKept_withCarry hc _ _))

theorem Writes.compareA (hz : writesZsp i = true) (hc : writesCarry i = true) (v : Byte) :
    Writes i s (s.compareA Config.hardware v) :=
  Writes.refl.setFlags ((flagsKept_zsp hz _ _).trans (flagsKept_withCarry hc _ _))

theorem Writes.logicToA (hr : .A ∈ writtenRegs i) (hz : writesZsp i = true) (res : Byte) :
    Writes i s (s.logicToA Config.hardware res) :=
  (Writes.refl.setReg hr res).setFlags (flagsKept_zsp hz s.flags res)

theorem Writes.rotateA (hr : .A ∈ writtenRegs i) (hc : writesCarry i = true) (res : Byte) (cy : Bool) :
    Writes i s (s.rotateA res cy) :=
  (Writes.refl.setReg hr res).setFlags (flagsKept_withCarry hc s.flags cy)

theorem Writes.countReg {r : Reg} (hr : r ∈ writtenRegs i) (hz : writesZsp i = true) (res : Byte) :
    Writes i s (s.countReg r res) :=
  (Writes.refl.setReg hr res).setFlags (by simpa using flagsKept_zsp hz s.flags res)

theorem Writes.countM (hx : s.hl ∈ storedTo i s) (hz : writesZsp i = true) (res : Byte) :
    Writes i s (s.countM res) :=
  (Writes.refl.writeByte hx res).setFlags (flagsKept_zsp hz s.flags res)

theorem Writes.writeWord {x : Word} (hx : [x, x + 1] ⊆ storedTo i s) (w : Word) : Writes i s (s.writeWord x w) :=
  (Writes.refl.writeByte (hx (.head _)) _).writeByte (hx (.tail _ (.head _))) _

theorem Writes.push16 (hx : [s.sp - 1, s.sp - 2] ⊆ storedTo i s) (hsp : writesSp s.flags i = true) (w : Word) :
    Writes i s (s.push16 w) :=
  ((Writes.refl.writeByte (hx (.head _)) _).writeByte (hx (.tail _ (.head _))) _).setSP hsp _

theorem Writes.callTo (hx : [s.sp - 1, s.sp - 2] ⊆ storedTo i s) (hsp : writesSp s.flags i = true)
    (hpc : isTransfer i = true) (target : Word) : Writes i s (s.callTo target) :=
  (Writes.push16 hx hsp _).setPC hpc _

theorem Writes.returnFromCall (hsp : writesSp s.flags i = true) (hpc : isTransfer i = true) :
    Writes i s s.returnFromCall :=
  (Writes.refl.setSP hsp _).setPC hpc _

/-! ### The conditional transfers: a transfer where taken, and nothing where not (44_control_transfer.md R233) -/

theorem Writes.jumpIf (hpc : isTransfer i = true) (cond : Cond) (target : Word) :
    Writes i s (s.jumpIf cond target) := by
  cases h : s.flags.cond cond with
  | true =>
    rw [State.jumpIf_true h]
    exact Writes.refl.setPC hpc target
  | false =>
    rw [State.jumpIf_false h]
    exact .refl

theorem isTransfer_of_callTaken {f : Flags} (h : callTaken f i = true) : isTransfer i = true := by
  cases i
  case cnz | cz | cnc | cc | cpo | cpe | cp | cm => rfl
  all_goals cases h

theorem writesSp_of_callTaken {f : Flags} (h : callTaken f i = true) : writesSp f i = true := by
  cases i
  case cnz | cz | cnc | cc | cpo | cpe | cp | cm => exact Bool.or_eq_true_iff.mpr (.inl h)
  all_goals cases h

theorem storedTo_of_callTaken (h : callTaken s.flags i = true) : storedTo i s = [s.sp - 1, s.sp - 2] := by
  cases i
  case cnz | cz | cnc | cc | cpo | cpe | cp | cm => exact if_pos h
  all_goals cases h

theorem Writes.callIf {cond : Cond} (hc : callTaken s.flags i = s.flags.cond cond) (target : Word) :
    Writes i s (s.callIf cond target) := by
  cases h : s.flags.cond cond with
  | true =>
    rw [h] at hc
    rw [State.callIf_true h]
    exact .callTo (storedTo_of_callTaken hc ▸ List.Subset.refl _) (writesSp_of_callTaken hc)
      (isTransfer_of_callTaken hc) target
  | false =>
    rw [State.callIf_false h]
    exact .refl

theorem isTransfer_of_returnTaken {f : Flags} (h : returnTaken f i = true) : isTransfer i = true := by
  cases i
  case rnz | rz | rnc | rc | rpo | rpe | rp | rm => rfl
  all_goals cases h

theorem writesSp_of_returnTaken {f : Flags} (h : returnTaken f i = true) : writesSp f i = true := by
  cases i
  case rnz | rz | rnc | rc | rpo | rpe | rp | rm => exact h
  all_goals cases h

theorem Writes.returnIf {cond : Cond} (hc : returnTaken s.flags i = s.flags.cond cond) :
    Writes i s (s.returnIf cond) := by
  cases h : s.flags.cond cond with
  | true =>
    rw [h] at hc
    rw [State.returnIf_true h]
    exact .returnFromCall (writesSp_of_returnTaken hc) (isTransfer_of_returnTaken hc)
  | false =>
    rw [State.returnIf_false h]
    exact .refl
end

/-- An instruction that does not fault makes its writes from the next address on. -/
theorem exec_writes {i : Instr} {s t : State} (hrow : isFaultingRow i = false) (h : exec i s = .next t) :
    Writes i (s.advance (encode i).length) t := by
  cases i <;> cases h
  case movRR | movRM | mviR | ldax | lda | cma => exact .setReg .refl (.head _) _
  case movMR | mviM | stax | sta => exact .writeByte .refl (.head _) _
  case shld => exact .writeWord (List.Subset.refl _) _
  case lxi rp _ | inx rp | dcx rp => exact .setPair .refl (List.Subset.refl _) (by rintro rfl; rfl) _
  case lhld => exact .setPair (p := .HL) .refl (List.Subset.refl _) nofun _
  case xthl => exact (Writes.writeWord (List.Subset.refl _) _).setPair (p := .HL) (List.Subset.refl _) nofun _
  case xchg =>
    exact (Writes.setPair (p := .DE) .refl (List.subset_append_left _ [Reg.H, .L]) nofun _).setPair (p := .HL)
      (List.subset_append_right [Reg.D, .E] _) nofun _
  case dad =>
    exact (Writes.setPair (p := .HL) .refl (List.Subset.refl _) nofun _).setFlags (flagsKept_withCarry rfl _ _)
  case add | adc | adi | aci => exact .addToA (.head _) rfl rfl _ _
  case sub | sbb | sui | sbi => exact .subFromA (.head _) rfl rfl _ _
  case ana | xra | ora | ani | xri | ori => exact .logicToA (.head _) rfl _
  case cmp | cpi => exact .compareA rfl rfl _
  case inrR | dcrR => exact .countReg (.head _) rfl _
  case inrM | dcrM => exact .countM (.head _) rfl _
  case rlc | rrc | ral | rar => exact .rotateA (.head _) rfl _ _
  case cmc | stc => exact .setFlags .refl (flagsKept_withCarry rfl _ _)
  case jmp | pchl => exact .setPC .refl rfl _
  case jnz | jz | jnc | jc | jpo | jpe | jp | jm => exact .jumpIf rfl _ _
  case call | rst => exact .callTo (List.Subset.refl _) rfl rfl _
  case cnz | cnc | cpo | cp => exact .callIf (beq_false _) _
  case cz | cc | cpe | cm => exact .callIf (beq_true _) _
  case ret => exact .returnFromCall rfl rfl
  case rnz | rnc | rpo | rp => exact .returnIf (beq_false _)
  case rz | rc | rpe | rm => exact .returnIf (beq_true _)
  case push | pushPsw => exact .push16 (List.Subset.refl _) rfl _
  case pop =>
    rw [State.setStackPair_eq_setPair]
    exact (Writes.refl.setSP rfl _).setPair (List.Subset.refl _) (fun _ => rfl) _
  case popPsw => exact ((Writes.refl.setSP rfl _).setFlags (flagsKept_popPsw _ _)).setReg (.head _) _
  case sphl => exact .setSP .refl rfl _
  case nop => exact .refl
  case di => exact .setInte .refl (.inr rfl) _
  case ei => exact .setInte .refl (.inl rfl) _
  case hlt => exact .halt .refl rfl
  case inp => exact (Writes.refl.setReg (.head _) _).afterPortRead rfl
  case outp => exact .portWrite .refl rfl _
  case daa | undoc00 | undocCB | undocD9 | undocXD => cases hrow

/-- A faulting row raises the exception with its own opcode byte and does nothing else (60_exceptions.md R310). -/
theorem exec_raises {i : Instr} (hrow : isFaultingRow i = true) (s : State) :
    exec i s = .next (s.raiseUnimplemented i.opcode) := by
  cases i
  case daa | undoc00 | undocCB | undocD9 | undocXD => rfl
  all_goals cases hrow

/-- What one instruction does: the exception, or its writes. -/
theorem exec_cases {i : Instr} {s t : State} (h : exec i s = .next t) :
    (isFaultingRow i = true ∧ t = s.raiseUnimplemented i.opcode) ∨
      (isFaultingRow i = false ∧ Writes i (s.advance (encode i).length) t) := by
  cases hrow : isFaultingRow i with
  | true =>
    rw [exec_raises hrow] at h
    cases h
    exact .inl ⟨rfl, rfl⟩
  | false => exact .inr ⟨rfl, exec_writes hrow h⟩

/-! ### What a row of writes leaves alone -/

section
variable {i : Instr} {s t : State}

theorem Writes.flagsKept (h : Writes i s t) : FlagsKept i s.flags t.flags := by
  induction h using Writes.inductionOn with
  | refl => exact .refl _ _
  | setFlags _ _ _ hf ih => exact ih.trans hf
  | _ => simpa

theorem Writes.sameRegsBut (h : Writes i s t) : SameRegsBut (writtenRegs i) s t := by
  intro q hq
  induction h using Writes.inductionOn with
  | refl => rfl
  | setReg _ _ _ _ hr ih => rw [State.getReg_setReg, if_neg (ne_of_mem_of_not_mem hr hq).symm, ih]
  | halt _ _ _ ih => cases q <;> exact ih
  | _ => simpa

theorem Writes.sp_eq (h : Writes i s t) (hsp : writesSp s.flags i = false) : t.sp = s.sp := by
  induction h using Writes.inductionOn with
  | refl => rfl
  | setSP _ _ _ hw => simp [hsp] at hw
  | _ => simpa

theorem Writes.pc_eq (h : Writes i s t) (hpc : isTransfer i = false) : t.pc = s.pc := by
  induction h using Writes.inductionOn with
  | refl => rfl
  | setPC _ _ _ hw => simp [hpc] at hw
  | _ => simpa

theorem Writes.inte_eq (h : Writes i s t) (hei : i ≠ .ei) (hdi : i ≠ .di) : t.inte = s.inte := by
  induction h using Writes.inductionOn with
  | refl => rfl
  | setInte _ _ _ hi => exact absurd hi (by simp [hei, hdi])
  | _ => simpa

theorem Writes.halted_eq (h : Writes i s t) (hhlt : i ≠ .hlt) : t.halted = s.halted := by
  induction h using Writes.inductionOn with
  | refl => rfl
  | halt _ _ hi => exact absurd hi hhlt
  | _ => simpa

theorem Writes.fault_eq (h : Writes i s t) : t.fault = s.fault ∧ t.record = s.record := by
  induction h using Writes.inductionOn with
  | refl => exact ⟨rfl, rfl⟩
  | _ => simpa
end

/-! ### The obligations on what instructions leave alone -/

/-- Settles O17: a faulting row writes no flag, and any other row of writes keeps the flags it is not to write. -/
theorem flagsAreWrittenOnlyAsTabled : Obligations.FlagsAreWrittenOnlyAsTabled := by
  intro i s t h
  obtain ⟨-, rfl⟩ | ⟨-, hw⟩ := exec_cases h
  · exact FlagsKept.refl i s.flags
  · exact hw.flagsKept

/-- Settles O19: only `setReg` writes a register, and only one the instruction names. -/
theorem registersAreWrittenOnlyAsNamed : Obligations.RegistersAreWrittenOnlyAsNamed := by
  intro i s t h r hr
  obtain ⟨-, rfl⟩ | ⟨-, hw⟩ := exec_cases h
  · exact State.getReg_raiseUnimplemented _ _ r
  · rw [hw.sameRegsBut r hr, State.getReg_advance]

/-- Settles O20: only `setSP` writes SP, and only in an instruction of its list; a transfer not taken makes no write. -/
theorem stackPointerIsWrittenOnlyByItsList : Obligations.StackPointerIsWrittenOnlyByItsList := by
  intro i s t h hsp
  obtain ⟨-, rfl⟩ | ⟨-, hw⟩ := exec_cases h
  · rfl
  · exact hw.sp_eq hsp

/-- Settles O21: INTE and HALTED have a write of their own, and no write reaches FAULT or the record: the faulting
rows alone do. -/
theorem controlBitsAreWrittenOnlyByTheirInstructions :
    Obligations.ControlBitsAreWrittenOnlyByTheirInstructions := by
  intro i s t h
  obtain ⟨hrow, rfl⟩ | ⟨-, hw⟩ := exec_cases h
  · exact ⟨fun _ _ => rfl, fun _ => rfl, fun hno => by simp [hrow] at hno⟩
  · exact ⟨hw.inte_eq, hw.halted_eq, fun _ => hw.fault_eq⟩

/-- Settles O24: PC is the next address before the writes, and only a transfer writes it again. -/
theorem programCounterAdvancesByTheLength : Obligations.ProgramCounterAdvancesByTheLength := by
  intro i s t h hpc hrow
  rw [(exec_writes hrow h).pc_eq hpc]
  simp

/-! ### AC is carried along and not read (10_state.md R30) -/

/-- The state with another value of AC. -/
def State.withAc (s : State) (x : Bool) : State := { s with flags := { s.flags with ac := x } }

theorem State.setReg_withAc (s : State) (x : Bool) (r : Reg) (v : Byte) :
    (s.withAc x).setReg r v = (s.setReg r v).withAc x := by
  cases r <;> rfl

theorem State.countReg_withAc (s : State) (x : Bool) (r : Reg) (v : Byte) :
    (s.withAc x).countReg r v = (s.countReg r v).withAc x := by
  cases r <;> rfl

theorem State.setPair_withAc (s : State) (x : Bool) (p : Pair) (w : Word) :
    (s.withAc x).setPair p w = (s.setPair p w).withAc x := by
  cases p <;> rfl

theorem State.setStackPair_withAc (s : State) (x : Bool) (p : StackPair) (w : Word) :
    (s.withAc x).setStackPair p w = (s.setStackPair p w).withAc x := by
  cases p <;> rfl

/-- No condition tests AC (44_control_transfer.md R203). -/
theorem State.cond_withAc (s : State) (x : Bool) (cond : Cond) :
    (s.withAc x).flags.cond cond = s.flags.cond cond := by
  cases cond <;> rfl

theorem State.jumpIf_withAc (s : State) (x : Bool) (cond : Cond) (w : Word) :
    (s.withAc x).jumpIf cond w = (s.jumpIf cond w).withAc x := by
  cases h : s.flags.cond cond with
  | true =>
    rw [State.jumpIf_true h, State.jumpIf_true ((s.cond_withAc x cond).trans h)]
    rfl
  | false => rw [State.jumpIf_false h, State.jumpIf_false ((s.cond_withAc x cond).trans h)]

theorem State.callIf_withAc (s : State) (x : Bool) (cond : Cond) (w : Word) :
    (s.withAc x).callIf cond w = (s.callIf cond w).withAc x := by
  cases h : s.flags.cond cond with
  | true =>
    rw [State.callIf_true h, State.callIf_true ((s.cond_withAc x cond).trans h)]
    rfl
  | false => rw [State.callIf_false h, State.callIf_false ((s.cond_withAc x cond).trans h)]

theorem State.returnIf_withAc (s : State) (x : Bool) (cond : Cond) :
    (s.withAc x).returnIf cond = (s.returnIf cond).withAc x := by
  cases h : s.flags.cond cond with
  | true =>
    rw [State.returnIf_true h, State.returnIf_true ((s.cond_withAc x cond).trans h)]
    rfl
  | false => rw [State.returnIf_false h, State.returnIf_false ((s.cond_withAc x cond).trans h)]

/-- An instruction that neither stores nor loads the flag byte carries AC along. Where the write is to a register or
pair that the instruction names, or depends on a condition, this is the operation's own lemma; elsewhere both sides
compute the same fields. -/
theorem exec_withAc {i : Instr} {s t : State} (hpush : i ≠ .pushPsw) (hpop : i ≠ .popPsw) (h : exec i s = .next t)
    (x : Bool) : exec i (s.withAc x) = .next (t.withAc x) := by
  cases i <;> cases h
  case movRR | movRM => exact congrArg _ (State.setReg_withAc (s.advance 1) x _ _)
  case mviR => exact congrArg _ (State.setReg_withAc (s.advance 2) x _ _)
  case inrR | dcrR => exact congrArg _ (State.countReg_withAc (s.advance 1) x _ _)
  case inx | dcx => exact congrArg _ (State.setPair_withAc (s.advance 1) x _ _)
  case lxi => exact congrArg _ (State.setPair_withAc (s.advance 3) x _ _)
  case pop => exact congrArg _ (State.setStackPair_withAc (s.advance 1).dropTop x _ _)
  case jnz | jz | jnc | jc | jpo | jpe | jp | jm => exact congrArg _ (State.jumpIf_withAc (s.advance 3) x _ _)
  case cnz | cz | cnc | cc | cpo | cpe | cp | cm => exact congrArg _ (State.callIf_withAc (s.advance 3) x _ _)
  case rnz | rz | rnc | rc | rpo | rpe | rp | rm => exact congrArg _ (State.returnIf_withAc (s.advance 1) x _)
  case pushPsw => exact absurd rfl hpush
  case popPsw => exact absurd rfl hpop
  all_goals rfl

/-- POP PSW overwrites AC (45_stack.md R257). -/
theorem exec_popPsw_withAc (s : State) (x : Bool) : exec .popPsw (s.withAc x) = exec .popPsw s := rfl

/-- Settles O18: POP PSW takes AC from the stack; every other instruction but PUSH PSW carries it along. -/
theorem auxiliaryCarryIsReadOnlyByPushPsw : Obligations.AuxiliaryCarryIsReadOnlyByPushPsw := by
  intro i s t x hpush h
  by_cases hpop : i = .popPsw
  · subst hpop
    rw [if_pos rfl, ← h]
    exact exec_popPsw_withAc s x
  · rw [if_neg hpop]
    exact exec_withAc hpush hpop h x

/-! ### Pairs (10_state.md R21) -/

theorem pairValue_eq_getPair (s : State) (p : Pair) : pairValue s p = (s.getPair p).toNat := by
  cases p with
  | BC => exact s.bc_toNat.symm
  | DE => exact s.de_toNat.symm
  | HL => exact s.hl_toNat.symm
  | SP => rfl

theorem State.setPair_sp {p : Pair} (s : State) (hp : p ≠ .SP) (w : Word) : (s.setPair p w).sp = s.sp := by
  cases p with
  | SP => exact absurd rfl hp
  | _ => rfl

/-- Writing a pair is a row of register writes: those of LXI. -/
theorem State.sameRegsBut_setPair (s : State) (p : Pair) (w : Word) : SameRegsBut (pairRegs p) s (s.setPair p w) :=
  (Writes.setPair (i := .lxi p w) .refl (List.Subset.refl _) (by rintro rfl; rfl) w).sameRegsBut

theorem State.restBut_setPair (s : State) (p : Pair) (w : Word) : RestBut (pairRegs p) [] s (s.setPair p w) :=
  ⟨s.sameRegsBut_setPair p w, fun x _ => State.readByte_congr (s.setPair_mem p w) x,
    ⟨s.setPair_inte p w, s.setPair_halted p w, s.setPair_fault p w, s.setPair_record p w⟩,
    ⟨s.setPair_portOut p w, s.setPair_portIn p w, s.setPair_draws p w, s.setPair_irqs p w, s.setPair_choices p w⟩⟩

/-- Settles O25, from the value of a joined pair and the frame of writing one. -/
theorem registerPairsAreViews : Obligations.RegisterPairsAreViews := by
  refine fun s => ⟨s.bc_toNat, s.de_toNat, s.hl_toNat, fun p w => ?_⟩
  refine ⟨?_, s.setPair_pc p w, fun hp => s.setPair_sp hp w, s.setPair_flags p w, s.restBut_setPair p w⟩
  rw [pairValue_eq_getPair, State.getPair_setPair]

/-! ### The bytes that fault (30_encoding.md R93) -/

/-- Every instruction that bytes of the shape can be has the property. -/
def ShapeHolds (P : Instr → Prop) : Shape → Prop
  | .f1 i => P i
  | .f2 i => ∀ imm, P (i imm)
  | .f3 i => ∀ w, P (i w)

/-- What every instruction an opcode byte can begin has, the decoded instruction has. -/
theorem holds_of_decode {P : Instr → Prop} {op : Byte} {operands rest : List Byte} {i : Instr}
    (hP : ∀ k, decodeOpcode op = some k → ShapeHolds P k) (h : decode (op :: operands) = .ok (i, rest)) : P i := by
  obtain ⟨_, ⟨hs, hb⟩ | ⟨k, imm, hs, rfl, hb⟩ | ⟨k, lo, hi, hs, rfl, hb⟩⟩ := decode_cases h <;> cases hb
  · exact hP _ hs
  · exact hP _ hs imm
  · exact hP _ hs _

/-- Whatever shape the row gives a byte, every instruction of it has the property. -/
def RowHolds (P : Instr → Prop) (row : Row) : Prop := ∀ op k, row.shape op = some k → ShapeHolds P k

theorem rowHolds_fixedRow {P : Instr → Prop} {bits : Byte} {k : Shape} :
    RowHolds P (fixedRow bits k) ↔ ShapeHolds P k := by
  simp [RowHolds, fixedRow]

theorem fixedRows_not_faulting :
    ∀ row ∈ rowsFixedData ++ rowsFixedControl ++ rowsFixedOther, RowHolds (isFaultingRow · = false) row := by
  simp only [rowsFixedData, rowsFixedControl, rowsFixedOther, List.forall_mem_append, List.forall_mem_cons,
    rowHolds_fixedRow, ShapeHolds, List.not_mem_nil, false_implies, implies_true, and_true]
  and_intros <;> intros <;> rfl

theorem rowsWithField_not_faulting : ∀ row ∈ rowsWithField, RowHolds (isFaultingRow · = false) row := by
  simp only [rowsWithField, List.forall_mem_cons, RowHolds, Option.some.injEq, forall_eq', Option.map_eq_some_iff,
    Option.bind_eq_some_iff, forall_exists_index, and_imp, forall_apply_eq_imp_iff₂,
    ShapeHolds, List.not_mem_nil, false_implies, implies_true, and_true]
  and_intros <;> intros <;> subst_vars <;> rfl

/-- No row of the 84 instructions builds a faulting one. -/
theorem opcodeTable_not_faulting : ∀ row ∈ opcodeTable, RowHolds (isFaultingRow · = false) row := by
  intro row hrow
  obtain h | h := List.mem_append.mp hrow
  · exact fixedRows_not_faulting row h
  · exact rowsWithField_not_faulting row h

theorem decodeOpcode_of_not_unimplemented {op : Byte} (hop : op ∉ Config.hardware.unimplemented) {k : Shape}
    (hk : decodeOpcode op = some k) : ShapeHolds (isFaultingRow · = false) k := by
  have hfirst : decodeOpcode op = firstMatch opcodeTable op := if_neg (by simpa using hop)
  rw [hfirst] at hk
  obtain ⟨row, hrow, hshape⟩ := Option.bind_eq_some_iff.mp hk
  exact opcodeTable_not_faulting row (List.mem_of_find?_eq_some hrow) op k hshape

/-- Each of the thirteen bytes begins a faulting row, and it is that row's opcode byte. -/
theorem decodeOpcode_of_unimplemented {op : Byte} (hop : op ∈ Config.hardware.unimplemented) {k : Shape}
    (hk : decodeOpcode op = some k) : ShapeHolds (fun i => isFaultingRow i = true ∧ i.opcode = op) k := by
  fin_cases hop <;> cases hk <;> exact ⟨rfl, rfl⟩

/-- A faulting row is decoded at the thirteen bytes alone, each its own opcode byte (48_unimplemented.md R300). -/
theorem unimplemented_of_decode {op : Byte} {operands rest : List Byte} {i : Instr}
    (h : decode (op :: operands) = .ok (i, rest)) (hrow : isFaultingRow i = true) :
    op ∈ Config.hardware.unimplemented ∧ i.opcode = op := by
  by_cases hop : op ∈ Config.hardware.unimplemented
  · exact ⟨hop, (holds_of_decode (fun _ => decodeOpcode_of_unimplemented hop) h).2⟩
  · have hnot : isFaultingRow i = false := holds_of_decode (fun _ => decodeOpcode_of_not_unimplemented hop) h
    simp [hrow] at hnot

/-! ### The fault record -/

/-- The record has meaning only once FAULT is 1 (10_state.md R37). -/
theorem State.faultRecorded_of_no_fault {s : State} (hf : s.fault = false) : s.faultRecorded = true :=
  Bool.or_eq_true_iff.mpr (.inl (congrArg (!·) hf))

theorem State.oneEnd_of_no_fault {s : State} (hf : s.fault = false) : s.oneEnd = true := by
  rw [State.oneEnd, hf, Bool.and_false, Bool.not_false]

/-- The exception records PC and, where that is the byte it is raised with, the byte at PC (60_exceptions.md R310). -/
theorem State.faultRecorded_raiseUnimplemented {s : State} {op : Byte} (hop : op ∈ Config.hardware.unimplemented)
    (hbyte : op = s.readByte s.pc) : (s.raiseUnimplemented op).faultRecorded = true := by
  simp only [State.faultRecorded, Bool.or_eq_true, Bool.and_eq_true, beq_iff_eq]
  exact .inr ⟨⟨rfl, hbyte⟩, List.contains_iff_mem.mpr hop⟩

theorem State.oneEnd_raiseUnimplemented {s : State} (hh : s.halted = false) (op : Byte) :
    (s.raiseUnimplemented op).oneEnd = true := by
  simp [State.oneEnd, hh]

/-- Settles O13. A step begins with FAULT 0. Acceptance and an instruction that does not fault leave it so; a faulting
row sets it with its own opcode byte, which is the byte at PC it was decoded from, and HALTED is 0 at every step. -/
theorem stepKeepsTheFaultRecorded : Obligations.StepKeepsTheFaultRecorded := by
  intro s t _ _ h
  obtain ⟨hf, hh, ⟨n, -, rfl⟩ | ⟨-, i, hdecode, hexec⟩⟩ := step_cases h
  · have hf' : (s.afterRequest.acceptInterrupt n).fault = false := by simp [hf]
    exact ⟨State.faultRecorded_of_no_fault hf', State.oneEnd_of_no_fault hf'⟩
  · obtain ⟨hrow, rfl⟩ | ⟨-, hw⟩ := exec_cases hexec
    · rw [State.fetch_eq] at hdecode
      obtain ⟨hop, hbyte⟩ := unimplemented_of_decode hdecode hrow
      exact ⟨State.faultRecorded_raiseUnimplemented (hbyte ▸ hop) hbyte,
        State.oneEnd_raiseUnimplemented (s.afterRequest_halted.trans hh) _⟩
    · have hf' : t.fault = false := by simpa [hf] using hw.fault_eq.1
      exact ⟨State.faultRecorded_of_no_fault hf', State.oneEnd_of_no_fault hf'⟩

end Sys2Proof.Machine
end

section
/-! SUPPORT. What instructions and steps do to memory, by induction over the listed writes (`Writes.inductionOn`): only
`writeByte` reaches it, and only at an address the instruction stores to. With it the obligations O12 and O22. -/

namespace Sys2Proof.Machine

open Sys2Proof.Spec

section
variable {i : Instr} {s t : State}

theorem Writes.sameMemoryBut (h : Writes i s t) : SameMemoryBut (storedTo i s) s t := by
  intro x hx
  induction h using Writes.inductionOn with
  | refl => rfl
  | writeByte _ _ _ v hy ih => rw [State.readByte_writeByte_other _ v (ne_of_mem_of_not_mem hy hx).symm, ih]
  | _ => simpa [State.readByte]

theorem Writes.wf (h : Writes i s t) (hs : Memory.wf s.mem = true) : Memory.wf t.mem = true := by
  induction h using Writes.inductionOn with
  | refl => exact hs
  | writeByte _ _ x v _ ih => exact State.writeByte_wf ih x v
  | _ => simpa
end

/-- No address an instruction stores to is taken from PC, so it is the same before and after PC moves on. -/
theorem storedTo_advance (i : Instr) (s : State) (n : Nat) : storedTo i (s.advance n) = storedTo i s := by
  cases i
  case stax rp => cases rp <;> rfl
  all_goals rfl

theorem exec_wf {i : Instr} {s t : State} (hs : Memory.wf s.mem = true) (h : exec i s = .next t) :
    Memory.wf t.mem = true := by
  obtain ⟨-, rfl⟩ | ⟨-, hw⟩ := exec_cases h
  · rwa [State.raiseUnimplemented_mem]
  · exact hw.wf (by rwa [State.advance_mem])

/-- Settles O22: the exception stores nothing, and in any other instruction only `writeByte` reaches memory, at an
address of the list. -/
theorem memoryIsStoredToOnlyAsTabled : Obligations.MemoryIsStoredToOnlyAsTabled := by
  intro i s t h x hx
  obtain ⟨-, rfl⟩ | ⟨-, hw⟩ := exec_cases h
  · exact State.readByte_congr (State.raiseUnimplemented_mem _ _) x
  · rw [← storedTo_advance i s (encode i).length] at hx
    rw [hw.sameMemoryBut x hx, State.readByte_congr (State.advance_mem _ _)]

/-- Settles O12: acceptance stores the pushed PC and an instruction makes its listed writes, each a store of one byte
that keeps the canonical form. -/
theorem stepKeepsMemoryCanonical : Obligations.StepKeepsMemoryCanonical := by
  intro s t hs h
  have hs' : Memory.wf s.afterRequest.mem = true := by rwa [State.afterRequest_mem]
  obtain ⟨-, -, ⟨n, -, rfl⟩ | ⟨-, i, -, hexec⟩⟩ := step_cases h
  · exact State.acceptInterrupt_wf hs' n
  · exact exec_wf hs' hexec

end Sys2Proof.Machine
end

section
/-! SUPPORT. Encoding and decoding are inverse. What a shape reads after its opcode byte is the operand bytes it builds
an instruction from (`Shape.Builds`). A row builds only instructions encoded in the bytes it reads (`Shape.EncodedAt`),
row by row from the row's mask; and the opcode byte of every well-formed instruction begins that instruction
(`ReadByRow`). With them the obligations O1 to O5. -/

namespace Sys2Proof

open Machine Spec

/-! ### What a shape builds (30_encoding.md R81) -/

/-- The shape and these operand bytes complete the instruction. -/
def Shape.Builds : Shape → List Byte → Instr → Prop
  | .f1 j, operands, i => operands = [] ∧ i = j
  | .f2 k, operands, i => ∃ imm, operands = [imm] ∧ i = k imm
  | .f3 k, operands, i => ∃ w, operands = wordBytes w ∧ i = k w

theorem Shape.Builds.length_eq {k : Shape} {operands : List Byte} {i : Instr} (h : k.Builds operands i) :
    k.length = operands.length + 1 := by
  cases k with
  | f1 => obtain ⟨rfl, -⟩ := h; rfl
  | f2 => obtain ⟨_, rfl, -⟩ := h; rfl
  | f3 => obtain ⟨_, rfl, -⟩ := h; rfl

/-- A shape builds an instruction whenever as many operand bytes as its format has are there. -/
theorem Shape.exists_builds (k : Shape) (bytes : List Byte) (hlen : k.length ≤ bytes.length + 1) :
    ∃ operands rest i, bytes = operands ++ rest ∧ k.Builds operands i := by
  match k, bytes, hlen with
  | .f1 i, bytes, _ => exact ⟨[], bytes, i, rfl, rfl, rfl⟩
  | .f2 k, imm :: rest, _ => exact ⟨[imm], rest, k imm, rfl, imm, rfl, rfl⟩
  | .f3 k, lo :: hi :: rest, _ =>
    exact ⟨[lo, hi], rest, k (joinBytes hi lo), rfl, joinBytes hi lo, by simp [wordBytes], rfl⟩

theorem decode_of_builds {op : Byte} {k : Shape} {operands : List Byte} {i : Instr} (hk : decodeOpcode op = some k)
    (h : k.Builds operands i) (rest : List Byte) : decode (op :: (operands ++ rest)) = .ok (i, rest) := by
  cases k with
  | f1 =>
    obtain ⟨rfl, rfl⟩ := h
    exact decode_f1 hk rest
  | f2 =>
    obtain ⟨imm, rfl, rfl⟩ := h
    exact decode_f2 hk imm rest
  | f3 =>
    obtain ⟨w, rfl, rfl⟩ := h
    exact (decode_f3 hk _ _ rest).trans (by rw [joinBytes_hiByte_loByte])

/-- Decoding succeeds only so: the opcode byte has a shape, and the operand bytes after it build the instruction. -/
theorem builds_of_decode {bytes rest : List Byte} {i : Instr} (h : decode bytes = .ok (i, rest)) :
    ∃ op k operands, decodeOpcode op = some k ∧ k.Builds operands i ∧ bytes = op :: (operands ++ rest) := by
  obtain ⟨op, ⟨hk, rfl⟩ | ⟨k, imm, hk, rfl, rfl⟩ | ⟨k, lo, hi, hk, rfl, rfl⟩⟩ := decode_cases h
  · exact ⟨op, _, [], hk, ⟨rfl, rfl⟩, rfl⟩
  · exact ⟨op, _, [imm], hk, ⟨imm, rfl, rfl⟩, rfl⟩
  · exact ⟨op, _, [lo, hi], hk, ⟨joinBytes hi lo, by simp [wordBytes], rfl⟩, rfl⟩

/-! ### Lengths (30_encoding.md R80) -/

theorem exists_decode {op : Byte} {bytes : List Byte} (hlen : opcodeLength op ≤ bytes.length + 1) :
    ∃ i rest, decode (op :: bytes) = .ok (i, rest) := by
  obtain ⟨k, hk⟩ := exists_shape op
  rw [opcodeLength_of_shape hk] at hlen
  obtain ⟨operands, rest, i, rfl, hbuilds⟩ := k.exists_builds bytes hlen
  exact ⟨i, rest, decode_of_builds hk hbuilds rest⟩

theorem rest_of_decode {op : Byte} {bytes rest : List Byte} {i : Instr} (h : decode (op :: bytes) = .ok (i, rest)) :
    opcodeLength op ≤ bytes.length + 1 ∧ rest = bytes.drop (opcodeLength op - 1) := by
  obtain ⟨_, k, operands, hk, hbuilds, hbytes⟩ := builds_of_decode h
  obtain ⟨rfl, rfl⟩ := List.cons_eq_cons.mp hbytes
  simp [opcodeLength_of_shape hk, hbuilds.length_eq]

/-! ### Field codes and the fields of a byte a row takes (30_encoding.md R82, R84, R85) -/

theorem Reg.eq_code_of_ofCode {c : BitVec 3} {r : Reg} (h : Reg.ofCode c = some r) : c = r.code := by
  unfold Reg.ofCode at h
  split at h <;> cases h <;> rfl

theorem StackPair.eq_code_of_ofCode {c : BitVec 2} {p : StackPair} (h : StackPair.ofCode c = some p) : c = p.code := by
  unfold StackPair.ofCode at h
  split at h <;> cases h <;> rfl

theorem IndexPair.eq_code_of_ofCode {c : BitVec 2} {p : IndexPair} (h : IndexPair.ofCode c = some p) : c = p.code := by
  unfold IndexPair.ofCode at h
  split at h <;> cases h <;> rfl

theorem Pair.eq_code_ofCode : ∀ c : BitVec 2, c = (Pair.ofCode c).code := by decide

theorem Operand.eq_code_ofCode : ∀ c : BitVec 3, c = (Operand.ofCode c).code := by decide

theorem opcodeXYZ_fields (op : Byte) : opcodeXYZ (op.extractLsb' 6 2) (fieldY op) (fieldZ op) = op := by
  have hxy := BitVec.extractLsb'_append_extractLsb'_eq_extractLsb' (x := op) (len₂ := 2) (show 6 = 3 + 3 from rfl)
  rw [opcodeXYZ, fieldY, fieldZ, hxy]
  exact (BitVec.extractLsb'_append_extractLsb'_eq_extractLsb' rfl).trans BitVec.extractLsb'_eq_self

theorem opcodePair_fields (op : Byte) :
    opcodePair (op.extractLsb' 6 2) (fieldPP op) (op.extractLsb' 3 1) (fieldZ op) = op := by
  have hpp := BitVec.extractLsb'_append_extractLsb'_eq_extractLsb' (x := op) (len₂ := 2) (show 6 = 4 + 2 from rfl)
  have hk := BitVec.extractLsb'_append_extractLsb'_eq_extractLsb' (x := op) (len₂ := 4) (show 4 = 3 + 1 from rfl)
  rw [opcodePair, fieldPP, fieldZ, hpp, hk]
  exact (BitVec.extractLsb'_append_extractLsb'_eq_extractLsb' rfl).trans BitVec.extractLsb'_eq_self

theorem opcodeXYZ_eq {op : Byte} {xx : BitVec 2} {yyy zzz : BitVec 3} (hx : op.extractLsb' 6 2 = xx)
    (hy : fieldY op = yyy) (hz : fieldZ op = zzz) : opcodeXYZ xx yyy zzz = op := by
  rw [← hx, ← hy, ← hz, opcodeXYZ_fields]

theorem opcodePair_eq {op : Byte} {xx pp : BitVec 2} {k : BitVec 1} {zzz : BitVec 3} (hx : op.extractLsb' 6 2 = xx)
    (hpp : fieldPP op = pp) (hk : op.extractLsb' 3 1 = k) (hz : fieldZ op = zzz) : opcodePair xx pp k zzz = op := by
  rw [← hx, ← hpp, ← hk, ← hz, opcodePair_fields]

/-- In a byte that a row takes, a field the mask covers is the row's. -/
theorem field_of_takes {op mask bits : Byte} {start len : Nat} {field : BitVec len} (h : op &&& mask = bits)
    (hmask : mask.extractLsb' start len = .allOnes len) (hbits : bits.extractLsb' start len = field) :
    op.extractLsb' start len = field := by
  rw [← hbits, ← h, BitVec.extractLsb'_and, hmask, BitVec.and_allOnes]

/-! ### What the rows build is encoded in the bytes they read (30_encoding.md R92) -/

/-- Whatever the shape builds is encoded in this opcode byte and the operand bytes it is built from. -/
def Shape.EncodedAt (op : Byte) (k : Shape) : Prop := ∀ operands i, k.Builds operands i → encode i = op :: operands

theorem encodedAt_f1 {op : Byte} {i : Instr} : (Shape.f1 i).EncodedAt op ↔ encode i = [op] := by
  simp [Shape.EncodedAt, Shape.Builds]

theorem encodedAt_f2 {op : Byte} {k : Byte → Instr} :
    (Shape.f2 k).EncodedAt op ↔ ∀ imm, encode (k imm) = [op, imm] :=
  ⟨fun h imm => h _ _ ⟨imm, rfl, rfl⟩, fun h _ _ ⟨imm, hops, hi⟩ => hops ▸ hi ▸ h imm⟩

theorem encodedAt_f3 {op : Byte} {k : Word → Instr} :
    (Shape.f3 k).EncodedAt op ↔ ∀ w, encode (k w) = op :: wordBytes w :=
  ⟨fun h w => h _ _ ⟨w, rfl, rfl⟩, fun h _ _ ⟨w, hops, hi⟩ => hops ▸ hi ▸ h w⟩

/-- The row gives a byte it takes only a shape encoded at that byte. -/
def RowEncodes (row : Row) : Prop := ∀ op, op &&& row.mask = row.bits → ∀ k, row.shape op = some k → k.EncodedAt op

theorem rowEncodes_fixedRow {bits : Byte} {k : Shape} : RowEncodes (fixedRow bits k) ↔ k.EncodedAt bits := by
  have hmask (op : Byte) : op &&& 255#8 = op := BitVec.and_allOnes
  simp [RowEncodes, fixedRow, hmask]

theorem fixedRows_encode : ∀ row ∈ rowsFixedData ++ rowsFixedControl ++ rowsFixedOther, RowEncodes row := by
  simp only [rowsFixedData, rowsFixedControl, rowsFixedOther, List.forall_mem_append, List.forall_mem_cons,
    rowEncodes_fixedRow, encodedAt_f1, encodedAt_f2, encodedAt_f3, List.not_mem_nil, false_implies, implies_true,
    and_true]
  and_intros <;> intros <;> rfl

theorem rowsWithField_encode : ∀ row ∈ rowsWithField, RowEncodes row := by
  simp only [rowsWithField, List.forall_mem_cons, RowEncodes, Option.some.injEq, forall_eq', Option.map_eq_some_iff,
    Option.bind_eq_some_iff, forall_exists_index, and_imp, forall_apply_eq_imp_iff₂, encodedAt_f1, encodedAt_f2,
    encodedAt_f3, encode, Instr.opcode, Instr.operandBytes, List.cons.injEq, and_true, forall_const,
    List.not_mem_nil, false_implies, implies_true]
  refine ⟨?ldax, ?stax, ?lxi, ?inx, ?dcx, ?dad, ?push, ?pop, ?movRM, ?movMR, ?mviR, ?add, ?adc, ?sub, ?sbb, ?ana, ?xra,
    ?ora, ?cmp, ?inrR, ?dcrR, ?rst, ?movRR⟩ <;> intro op h
  case ldax | stax =>
    exact fun p hp => opcodePair_eq (field_of_takes h rfl rfl) (IndexPair.eq_code_of_ofCode hp)
      (field_of_takes h rfl rfl) (field_of_takes h rfl rfl)
  case lxi | inx | dcx | dad =>
    exact opcodePair_eq (field_of_takes h rfl rfl) (Pair.eq_code_ofCode _) (field_of_takes h rfl rfl)
      (field_of_takes h rfl rfl)
  case push | pop =>
    exact fun p hp => opcodePair_eq (field_of_takes h rfl rfl) (StackPair.eq_code_of_ofCode hp)
      (field_of_takes h rfl rfl) (field_of_takes h rfl rfl)
  case movRM | mviR | inrR | dcrR =>
    exact fun r hr => opcodeXYZ_eq (field_of_takes h rfl rfl) (Reg.eq_code_of_ofCode hr) (field_of_takes h rfl rfl)
  case rst => exact opcodeXYZ_eq (field_of_takes h rfl rfl) rfl (field_of_takes h rfl rfl)
  case movMR =>
    exact fun r hr => opcodeXYZ_eq (field_of_takes h rfl rfl) (field_of_takes h rfl rfl) (Reg.eq_code_of_ofCode hr)
  case add | adc | sub | sbb | ana | xra | ora | cmp =>
    exact opcodeXYZ_eq (field_of_takes h rfl rfl) (field_of_takes h rfl rfl) (Operand.eq_code_ofCode _)
  case movRR =>
    rintro _ d hd s hs rfl
    exact encodedAt_f1.mpr (congrArg ([·]) (opcodeXYZ_eq (field_of_takes h rfl rfl) (Reg.eq_code_of_ofCode hd)
      (Reg.eq_code_of_ofCode hs)))

theorem decodeOpcode_eq_firstMatch {op : Byte} (hop : op ∉ Config.hardware.unimplemented) :
    decodeOpcode op = firstMatch opcodeTable op :=
  if_neg (by simpa using hop)

theorem encodedAt_of_not_unimplemented {op : Byte} (hop : op ∉ Config.hardware.unimplemented) {k : Shape}
    (hk : decodeOpcode op = some k) : k.EncodedAt op := by
  rw [decodeOpcode_eq_firstMatch hop] at hk
  obtain ⟨row, hrow, hshape⟩ := Option.bind_eq_some_iff.mp hk
  have htakes : row.takes op = true := List.find?_some (p := (Row.takes · op)) hrow
  obtain hmem | hmem := List.mem_append.mp (List.mem_of_find?_eq_some hrow)
  · exact fixedRows_encode row hmem op (eq_of_beq htakes) k hshape
  · exact rowsWithField_encode row hmem op (eq_of_beq htakes) k hshape

/-- The faulting rows take the byte they are encoded in, and their fields are not those of NOP and CALL (R302, R305). -/
theorem encodedAt_of_unimplemented {op : Byte} (hop : op ∈ Config.hardware.unimplemented) {k : Shape}
    (hk : decodeOpcode op = some k) : k.EncodedAt op ∧ ShapeHolds (·.WellFormed = true) k := by
  fin_cases hop <;> cases hk <;> exact ⟨encodedAt_f1.mpr rfl, rfl⟩

theorem encodedAt_of_decodeOpcode {op : Byte} {k : Shape} (hk : decodeOpcode op = some k) : k.EncodedAt op := by
  by_cases hop : op ∈ Config.hardware.unimplemented
  · exact (encodedAt_of_unimplemented hop hk).1
  · exact encodedAt_of_not_unimplemented hop hk

/-- Only the faulting rows have ill-formed terms. -/
theorem wellFormed_of_not_faulting {i : Instr} (h : isFaultingRow i = false) : i.WellFormed = true := by
  cases i
  case undoc00 | undocXD => cases h
  all_goals rfl

theorem wellFormed_of_decode {op : Byte} {operands rest : List Byte} {i : Instr}
    (h : decode (op :: operands) = .ok (i, rest)) : i.WellFormed = true := by
  by_cases hop : op ∈ Config.hardware.unimplemented
  · exact holds_of_decode (fun _ hk => (encodedAt_of_unimplemented hop hk).2) h
  · exact wellFormed_of_not_faulting (holds_of_decode (fun _ => decodeOpcode_of_not_unimplemented hop) h)

/-! ### The row that reads an instruction (30_encoding.md R92) -/

/-- The instruction's opcode byte has a shape that builds it from its operand bytes. -/
def ReadByRow (i : Instr) : Prop := ∃ k, decodeOpcode i.opcode = some k ∧ k.Builds i.operandBytes i

theorem readByRow_f1 {i : Instr} (hk : decodeOpcode i.opcode = some (.f1 i)) (hops : i.operandBytes = []) :
    ReadByRow i :=
  ⟨_, hk, hops, rfl⟩

theorem readByRow_f2 {k : Byte → Instr} {op : Byte} (hk : decodeOpcode op = some (.f2 k))
    (henc : ∀ imm, encode (k imm) = [op, imm]) (imm : Byte) : ReadByRow (k imm) := by
  obtain ⟨rfl, hops⟩ := List.cons_eq_cons.mp (henc imm)
  exact ⟨_, hk, imm, hops, rfl⟩

theorem readByRow_f3 {k : Word → Instr} {op : Byte} (hk : decodeOpcode op = some (.f3 k))
    (henc : ∀ w, encode (k w) = op :: wordBytes w) (w : Word) : ReadByRow (k w) := by
  obtain ⟨rfl, hops⟩ := List.cons_eq_cons.mp (henc w)
  exact ⟨_, hk, w, hops, rfl⟩

/-! The two top bits of a byte leave few rows that can take it. Half of the bytes are MOV, HLT and the operations on an
operand, which these bits alone tell from the rest (30_encoding.md R82, R91), so their rows are looked up among those
few. -/

/-- The fixed bits of the row allow these two top bits. -/
def Row.allows (top : BitVec 2) (row : Row) : Bool := top &&& row.mask.extractLsb' 6 2 == row.bits.extractLsb' 6 2

theorem Row.allows_of_takes {row : Row} {op : Byte} (h : row.takes op = true) :
    row.allows (op.extractLsb' 6 2) = true := by
  rw [Row.allows, ← eq_of_beq h, BitVec.extractLsb'_and, beq_self_eq_true]

theorem firstMatch_filter_allows (rows : List Row) (op : Byte) :
    firstMatch (rows.filter (Row.allows (op.extractLsb' 6 2))) op = firstMatch rows op := by
  have htakes (row : Row) : (row.allows (op.extractLsb' 6 2) && row.takes op) = row.takes op :=
    Bool.and_eq_right_iff_imp.mpr Row.allows_of_takes
  simp only [firstMatch, List.find?_filter, Bool.decide_and, Bool.decide_eq_true, htakes]

/-- The rows of HLT and the MOVs. -/
def rowsMov : List Row := fixedRow 0x76 (.f1 .hlt) :: ((rowsWithField.drop 8).take 2 ++ rowsWithField.drop 22)

/-- The rows of the operations on the accumulator and an operand. -/
def rowsOperand : List Row := (rowsWithField.drop 11).take 8

theorem top_of_unimplemented : ∀ op ∈ Config.hardware.unimplemented,
    op.extractLsb' 6 2 = 0b00 ∨ op.extractLsb' 6 2 = 0b11 := by
  decide

theorem decodeOpcode_eq_rowsMov {op : Byte} (h : op.extractLsb' 6 2 = 0b01) :
    decodeOpcode op = firstMatch rowsMov op := by
  have hop : op ∉ Config.hardware.unimplemented := fun hmem => by simpa [h] using top_of_unimplemented op hmem
  have hrows : opcodeTable.filter (Row.allows 0b01) = rowsMov := rfl
  rw [decodeOpcode_eq_firstMatch hop, ← firstMatch_filter_allows, h, hrows]

theorem decodeOpcode_eq_rowsOperand {op : Byte} (h : op.extractLsb' 6 2 = 0b10) :
    decodeOpcode op = firstMatch rowsOperand op := by
  have hop : op ∉ Config.hardware.unimplemented := fun hmem => by simpa [h] using top_of_unimplemented op hmem
  have hrows : opcodeTable.filter (Row.allows 0b10) = rowsOperand := rfl
  rw [decodeOpcode_eq_firstMatch hop, ← firstMatch_filter_allows, h, hrows]

theorem readByRow_of_rowsMov {i : Instr} (htop : i.opcode.extractLsb' 6 2 = 0b01)
    (hk : firstMatch rowsMov i.opcode = some (.f1 i)) (hops : i.operandBytes = []) : ReadByRow i :=
  readByRow_f1 ((decodeOpcode_eq_rowsMov htop).trans hk) hops

theorem readByRow_of_rowsOperand {i : Instr} (htop : i.opcode.extractLsb' 6 2 = 0b10)
    (hk : firstMatch rowsOperand i.opcode = some (.f1 i)) (hops : i.operandBytes = []) : ReadByRow i :=
  readByRow_f1 ((decodeOpcode_eq_rowsOperand htop).trans hk) hops

/-- The opcode map inverts the opcode byte of every instruction, whatever its register, pair or index. -/
theorem readByRow_of_wellFormed {i : Instr} (h : i.WellFormed = true) : ReadByRow i := by
  cases i
  -- F2: an immediate byte or a port
  case mviR dst imm => cases dst <;> exact readByRow_f2 rfl (fun _ => rfl) _
  case mviM | adi | aci | sui | sbi | ani | xri | ori | cpi | inp | outp => exact readByRow_f2 rfl (fun _ => rfl) _
  -- F3: a 16-bit immediate or an address
  case lxi p w => cases p <;> exact readByRow_f3 rfl (fun _ => rfl) _
  case lda | sta | lhld | shld | jmp | jnz | jz | jnc | jc | jpo | jpe | jp | jm | call | cnz | cz | cnc | cc | cpo |
      cpe | cp | cm =>
    exact readByRow_f3 rfl (fun _ => rfl) _
  -- F1 with a field in the opcode byte
  case movRR dst src => cases dst <;> cases src <;> exact readByRow_of_rowsMov rfl rfl rfl
  case movRM r | movMR r => cases r <;> exact readByRow_of_rowsMov rfl rfl rfl
  case inrR r | dcrR r => cases r <;> exact readByRow_f1 rfl rfl
  case add src | adc src | sub src | sbb src | ana src | xra src | ora src | cmp src =>
    rcases src with ⟨r⟩ | _
    · cases r <;> exact readByRow_of_rowsOperand rfl rfl rfl
    · exact readByRow_of_rowsOperand rfl rfl rfl
  case inx p | dcx p | dad p => cases p <;> exact readByRow_f1 rfl rfl
  case ldax p | stax p => cases p <;> exact readByRow_f1 rfl rfl
  case push p | pop p => cases p <;> exact readByRow_f1 rfl rfl
  case rst n => fin_cases n <;> exact readByRow_f1 rfl rfl
  case undoc00 n =>
    fin_cases n
    · exact absurd h (by decide)
    all_goals exact readByRow_f1 rfl rfl
  case undocXD p =>
    fin_cases p
    · exact absurd h (by decide)
    all_goals exact readByRow_f1 rfl rfl
  -- F1 without a field
  all_goals exact readByRow_f1 rfl rfl

/-! ### The obligations -/

/-- Settles O2: the row of the instruction's opcode byte builds it from its operand bytes. -/
theorem decodeOfEncodeIsTheInstruction : Obligations.DecodeOfEncodeIsTheInstruction := by
  intro i rest hi
  obtain ⟨k, hk, hbuilds⟩ := readByRow_of_wellFormed hi
  exact decode_of_builds hk hbuilds rest

/-- Settles O3: the row that decoded the bytes builds only instructions encoded in them. -/
theorem encodeOfDecodeIsTheBytes : Obligations.EncodeOfDecodeIsTheBytes := by
  intro bytes rest i h
  obtain ⟨op, k, operands, hk, hbuilds, rfl⟩ := builds_of_decode h
  exact ⟨wellFormed_of_decode h, congrArg (· ++ rest) (encodedAt_of_decodeOpcode hk operands i hbuilds)⟩

/-- Settles O4: the length is that of the opcode byte's shape, which needs and uses the operand bytes of its format. -/
theorem opcodeByteFixesTheLength : Obligations.OpcodeByteFixesTheLength := by
  refine fun op => ⟨opcodeLength op, opcodeLength_cases op, fun operands => ⟨⟨?_, exists_decode⟩, ?_⟩⟩
  · rintro ⟨i, rest, h⟩
    exact (rest_of_decode h).1
  · exact fun i rest h => (rest_of_decode h).2

/-- The parameter `UNIMPLEMENTED` lists the thirteen bytes of 48_unimplemented.md R300. -/
theorem mem_unimplemented_iff (op : Byte) : op ∈ Config.hardware.unimplemented ↔ op ∈ faultingBytes :=
  List.Perm.mem_iff (by decide)

/-- Settles O5: a faulting row is decoded at the listed bytes alone, and each of them begins one. -/
theorem faultingRowsAreTheThirteenBytes : Obligations.FaultingRowsAreTheThirteenBytes := by
  intro op operands rest i h
  rw [← mem_unimplemented_iff]
  constructor
  · exact fun hrow => (unimplemented_of_decode h hrow).1
  · exact fun hop => (holds_of_decode (fun _ => decodeOpcode_of_unimplemented hop) h).1

theorem decode_of_encode_eq {i : Instr} {bytes : List Byte} (hi : i.WellFormed = true) (h : encode i = bytes) :
    decode bytes = .ok (i, []) := by
  rw [← h, ← List.append_nil (encode i)]
  exact decodeOfEncodeIsTheInstruction i [] hi

/-- Settles O1: each word is the encoding of its instruction. -/
theorem familyWordsDecode : Obligations.FamilyWordsDecode := by
  and_intros <;> exact decode_of_encode_eq rfl rfl

end Sys2Proof
end

section
/-! SUPPORT. Data movement. An instruction that writes no flag, no SP, no latch and no port only moves: its whole frame
follows from its listed writes (`moves_of_exec`), and its encoding from decoding being inverse to `encode`
(`encodesF1_of_encode` and its like). What is left of each obligation is the value moved. With them the obligations O26
to O31. -/

namespace Sys2Proof.Machine

open Sys2Proof.Spec

/-! ### Encodings (30_encoding.md R81) -/

theorem encodesF1_of_encode {op : Nat} {i : Instr} (hi : i.WellFormed = true)
    (henc : encode i = [BitVec.ofNat 8 op]) : EncodesF1 op i := by
  intro rest
  have hdec := decodeOfEncodeIsTheInstruction i rest hi
  rwa [henc] at hdec

theorem encodesF2_of_encode {op : Nat} {k : Byte → Instr} (hk : ∀ imm, (k imm).WellFormed = true)
    (henc : ∀ imm, encode (k imm) = [BitVec.ofNat 8 op, imm]) : EncodesF2 op k := by
  intro imm rest
  have hdec := decodeOfEncodeIsTheInstruction (k imm) rest (hk imm)
  rwa [henc] at hdec

theorem word_eq_joinBytes (hi lo : Byte) : word hi lo = joinBytes hi lo := by
  apply BitVec.eq_of_toNat_eq
  rw [word, ← joinBytes_toNat, BitVec.ofNat_toNat, BitVec.setWidth_eq]

theorem encodesF3_of_encode {op : Nat} {k : Word → Instr} (hk : ∀ w, (k w).WellFormed = true)
    (henc : ∀ w, encode (k w) = BitVec.ofNat 8 op :: wordBytes w) : EncodesF3 op k := by
  intro lo hi rest
  have hdec := decodeOfEncodeIsTheInstruction (k (joinBytes hi lo)) rest (hk _)
  rw [henc, wordBytes, loByte_joinBytes, hiByte_joinBytes] at hdec
  rwa [word_eq_joinBytes]

/-! ### Frames -/

/-- The instructions that write only registers, SP, PC, flags and memory: no latch, no fault record, no port. -/
def isInternal : Instr → Bool
  | .ei | .di | .hlt | .inp _ | .outp _ => false
  | i => !isFaultingRow i

section
variable {i : Instr} {s t : State}

theorem isFaultingRow_of_isInternal (hi : isInternal i = true) : isFaultingRow i = false := by
  cases i
  case daa | undoc00 | undocCB | undocD9 | undocXD => cases hi
  all_goals rfl

theorem Writes.sameControl (h : Writes i s t) (hi : isInternal i = true) : SameControl s t :=
  ⟨h.inte_eq (by rintro rfl; cases hi) (by rintro rfl; cases hi), h.halted_eq (by rintro rfl; cases hi), h.fault_eq⟩

theorem Writes.sameChoices (h : Writes i s t) : SameChoices s t := by
  induction h using Writes.inductionOn with
  | refl => exact ⟨rfl, rfl⟩
  | _ => simpa [SameChoices]

theorem Writes.portOut_eq (h : Writes i s t) (hout : ∀ port, i ≠ .outp port) : t.portOut = s.portOut := by
  induction h using Writes.inductionOn with
  | refl => rfl
  | portWrite _ _ port _ hi => exact absurd hi (hout port)
  | _ => simpa

theorem Writes.portIn_eq (h : Writes i s t) (hin : ∀ port, i ≠ .inp port) :
    t.portIn = s.portIn ∧ t.draws = s.draws := by
  induction h using Writes.inductionOn with
  | refl => exact ⟨rfl, rfl⟩
  | afterPortRead _ _ port hi => exact absurd hi (hin port)
  | _ => simpa

theorem Writes.samePorts (h : Writes i s t) (hi : isInternal i = true) : SamePorts s t := by
  obtain ⟨hportIn, hdraws⟩ := h.portIn_eq (by rintro port rfl; cases hi)
  exact ⟨h.portOut_eq (by rintro port rfl; cases hi), hportIn, hdraws, h.sameChoices⟩

/-- An instruction without a latch or a port to write leaves all but PC, SP, the flags and what its tables list. -/
theorem restBut_of_exec (hi : isInternal i = true) (h : exec i s = .next t) :
    RestBut (writtenRegs i) (storedTo i s) s t :=
  have hw := exec_writes (isFaultingRow_of_isInternal hi) h
  ⟨registersAreWrittenOnlyAsNamed i s t h, memoryIsStoredToOnlyAsTabled i s t h, hw.sameControl hi, hw.samePorts hi⟩

theorem pc_of_exec (hi : isInternal i = true) (hpc : isTransfer i = false) (h : exec i s = .next t) :
    t.pc = s.pc + BitVec.ofNat 16 (encode i).length :=
  (exec_writes (isFaultingRow_of_isInternal hi) h).pc_eq hpc

/-- The instructions that go on to the next address and write no flag, no latch and no port. -/
def onlyMoves (i : Instr) : Bool := isInternal i && !isTransfer i && !writesZsp i && !writesCarry i

theorem onlyMoves_iff :
    onlyMoves i = true ↔
      isInternal i = true ∧ isTransfer i = false ∧ writesZsp i = false ∧ writesCarry i = false := by
  simp [onlyMoves, and_assoc]

theorem FlagsKept.eq_of_no_write {f g : Flags} (h : FlagsKept i f g) (hzsp : writesZsp i = false)
    (hcarry : writesCarry i = false) : g = f := by
  obtain ⟨hflags, hcy, hac⟩ := h
  have hpop : i ≠ .popPsw := by rintro rfl; cases hzsp
  rcases f with ⟨z, s, p, cy, ac⟩
  obtain ⟨rfl, rfl, rfl⟩ := hflags hzsp
  obtain rfl := hcy hcarry
  obtain rfl := hac hpop
  rfl

theorem flags_of_exec (hi : onlyMoves i = true) (h : exec i s = .next t) : t.flags = s.flags := by
  obtain ⟨-, -, hzsp, hcarry⟩ := onlyMoves_iff.mp hi
  exact FlagsKept.eq_of_no_write (flagsAreWrittenOnlyAsTabled i s t h) hzsp hcarry

/-- The frame of data movement: PC goes on, and only what the tables of the instruction list is written. -/
theorem moves_of_exec (i : Instr) (hi : onlyMoves i = true) (hsp : writesSp s.flags i = false)
    (h : exec i s = .next t) :
    Moves (encode i).length (writtenRegs i) (storedTo i s) s t := by
  obtain ⟨hint, hpc, -, -⟩ := onlyMoves_iff.mp hi
  exact ⟨pc_of_exec hint hpc h, stackPointerIsWrittenOnlyByItsList i s t h hsp, flags_of_exec hi h,
    restBut_of_exec hint h⟩
end

/-! ### Values: PC is no operand and no address of data movement (00_scope.md R15) -/

@[simp] theorem State.getReg_setReg_same (s : State) (r : Reg) (v : Byte) : (s.setReg r v).getReg r = v := by
  rw [State.getReg_setReg, if_pos rfl]

@[simp] theorem State.setReg_A_a (s : State) (v : Byte) : (s.setReg .A v).a = v := rfl

@[simp] theorem State.readByte_advance (s : State) (n : Nat) (x : Word) : (s.advance n).readByte x = s.readByte x :=
  State.readByte_congr (s.advance_mem n) x

@[simp] theorem State.hl_advance (s : State) (n : Nat) : (s.advance n).hl = s.hl := rfl

@[simp] theorem State.indexAddress_advance (s : State) (n : Nat) (rp : IndexPair) :
    (s.advance n).indexAddress rp = s.indexAddress rp := by
  cases rp <;> rfl

theorem State.readByte_writeWord_low (s : State) (x w : Word) : (s.writeWord x w).readByte x = loByte w := by
  rw [State.readByte_writeWord, if_pos rfl]

theorem State.readByte_writeWord_high (s : State) (x w : Word) : (s.writeWord x w).readByte (x + 1) = hiByte w := by
  rw [State.readByte_writeWord, if_neg (Word.add_one_ne x), if_pos rfl]

/-! ### What each instruction moves, and that it changes nothing else (40_data_movement.md R111 to R122) -/

theorem exec_movRR (dst src : Reg) (s : State) :
    ∃ t, exec (.movRR dst src) s = .next t ∧ t.getReg dst = s.getReg src ∧ Moves 1 [dst] [] s t :=
  ⟨_, rfl, by simp, moves_of_exec (.movRR dst src) rfl rfl rfl⟩

/-- The address is the HL from before the write, also where the register is H or L. -/
theorem exec_movRM (dst : Reg) (s : State) :
    ∃ t, exec (.movRM dst) s = .next t ∧ t.getReg dst = s.readByte s.hl ∧ Moves 1 [dst] [] s t :=
  ⟨_, rfl, by simp, moves_of_exec (.movRM dst) rfl rfl rfl⟩

theorem exec_mviR (dst : Reg) (imm : Byte) (s : State) :
    ∃ t, exec (.mviR dst imm) s = .next t ∧ t.getReg dst = imm ∧ Moves 2 [dst] [] s t :=
  ⟨_, rfl, by simp, moves_of_exec (.mviR dst imm) rfl rfl rfl⟩

theorem exec_movMR (src : Reg) (s : State) :
    ∃ t, exec (.movMR src) s = .next t ∧ t.readByte s.hl = s.getReg src ∧ Moves 1 [] [s.hl] s t :=
  ⟨_, rfl, by simp, moves_of_exec (.movMR src) rfl rfl rfl⟩

theorem exec_mviM (imm : Byte) (s : State) :
    ∃ t, exec (.mviM imm) s = .next t ∧ t.readByte s.hl = imm ∧ Moves 2 [] [s.hl] s t :=
  ⟨_, rfl, by simp, moves_of_exec (.mviM imm) rfl rfl rfl⟩

/-- LXI writes SP where SP is the pair, so SP alone is not as in `Moves`. -/
theorem exec_lxi (p : Pair) (imm : Word) (s : State) :
    ∃ t, exec (.lxi p imm) s = .next t ∧ pairValue t p = imm.toNat ∧ t.pc = s.pc + 3 ∧
      (p ≠ .SP → t.sp = s.sp) ∧ t.flags = s.flags ∧ RestBut (pairRegs p) [] s t := by
  refine ⟨_, rfl, ?_, pc_of_exec (i := .lxi p imm) rfl rfl rfl, fun hp => State.setPair_sp _ hp imm,
    flags_of_exec (i := .lxi p imm) rfl rfl, restBut_of_exec (i := .lxi p imm) rfl rfl⟩
  rw [pairValue_eq_getPair, State.getPair_setPair]

theorem exec_ldax (p : IndexPair) (s : State) :
    ∃ t, exec (.ldax p) s = .next t ∧ t.a = s.readByte (s.indexAddress p) ∧ Moves 1 [.A] [] s t :=
  ⟨_, rfl, by simp, moves_of_exec (.ldax p) rfl rfl rfl⟩

theorem exec_stax (p : IndexPair) (s : State) :
    ∃ t, exec (.stax p) s = .next t ∧ t.readByte (s.indexAddress p) = s.a ∧ Moves 1 [] [s.indexAddress p] s t :=
  ⟨_, rfl, by simp, moves_of_exec (.stax p) rfl rfl rfl⟩

theorem exec_lda (addr : Word) (s : State) :
    ∃ t, exec (.lda addr) s = .next t ∧ t.a = s.readByte addr ∧ Moves 3 [.A] [] s t :=
  ⟨_, rfl, by simp, moves_of_exec (.lda addr) rfl rfl rfl⟩

theorem exec_sta (addr : Word) (s : State) :
    ∃ t, exec (.sta addr) s = .next t ∧ t.readByte addr = s.a ∧ Moves 3 [] [addr] s t :=
  ⟨_, rfl, by simp, moves_of_exec (.sta addr) rfl rfl rfl⟩

theorem exec_lhld (addr : Word) (s : State) :
    ∃ t, exec (.lhld addr) s = .next t ∧ t.l = s.readByte addr ∧ t.h = s.readByte (addr + 1) ∧
      Moves 3 [.H, .L] [] s t :=
  ⟨_, rfl, by simp [State.readWord], by simp [State.readWord], moves_of_exec (.lhld addr) rfl rfl rfl⟩

theorem exec_shld (addr : Word) (s : State) :
    ∃ t, exec (.shld addr) s = .next t ∧ t.readByte addr = s.l ∧ t.readByte (addr + 1) = s.h ∧
      Moves 3 [] [addr, addr + 1] s t := by
  refine ⟨_, rfl, ?_, ?_, moves_of_exec (.shld addr) rfl rfl rfl⟩
  · rw [State.readByte_writeWord_low, State.hl_advance, State.hl, loByte_joinBytes]
  · rw [State.readByte_writeWord_high, State.hl_advance, State.hl, hiByte_joinBytes]

/-! ### The obligations -/

/-- Settles O26: the destination reads what was written to it, the source's byte. -/
theorem movCopiesARegister : Obligations.MovCopiesARegister := by
  refine fun dst src => ⟨encodesF1_of_encode rfl ?_, exec_movRR dst src⟩
  cases dst <;> cases src <;> rfl

/-- Settles O27: the byte at the old HL, or the immediate byte, is the only register write. -/
theorem registerLoadsFromCellAndImmediate : Obligations.RegisterLoadsFromCellAndImmediate := by
  refine fun dst => ⟨⟨encodesF1_of_encode rfl ?_, exec_movRM dst⟩,
    encodesF2_of_encode (fun _ => rfl) ?_, exec_mviR dst⟩
  · cases dst <;> rfl
  · cases dst <;> exact fun _ => rfl

/-- Settles O28: a store leaves H and L as they are, so the cell at the old HL is the one written. -/
theorem cellStoresFromRegisterAndImmediate : Obligations.CellStoresFromRegisterAndImmediate := by
  refine ⟨fun src => ⟨encodesF1_of_encode rfl ?_, exec_movMR src⟩,
    encodesF2_of_encode (fun _ => rfl) fun _ => rfl, exec_mviM⟩
  cases src <;> rfl

/-- Settles O29: the low operand byte is the low byte of the word, and a pair reads as the word written to it. -/
theorem lxiLoadsAPair : Obligations.LxiLoadsAPair := by
  refine fun p => ⟨encodesF3_of_encode (fun _ => rfl) ?_, exec_lxi p⟩
  cases p <;> exact fun _ => rfl

/-- Settles O30: A is loaded from, and stored to, the address that the pair or the operand gives. -/
theorem accumulatorMovesToAndFromMemory : Obligations.AccumulatorMovesToAndFromMemory := by
  refine ⟨fun p => ⟨fun s => ?address, ⟨encodesF1_of_encode rfl ?ldax, exec_ldax p⟩,
      encodesF1_of_encode rfl ?stax, exec_stax p⟩,
    ⟨encodesF3_of_encode (fun _ => rfl) fun _ => rfl, exec_lda⟩,
    encodesF3_of_encode (fun _ => rfl) fun _ => rfl, exec_sta⟩
  case address | ldax | stax => cases p <;> rfl

/-- Settles O31: the low byte of HL is L and goes with the address, the high byte is H and goes with the next one. -/
theorem hlLoadsAndStoresDirect : Obligations.HlLoadsAndStoresDirect :=
  ⟨⟨encodesF3_of_encode (fun _ => rfl) fun _ => rfl, exec_lhld⟩,
    encodesF3_of_encode (fun _ => rfl) fun _ => rfl, exec_shld⟩

end Sys2Proof.Machine
end

section
/-! SUPPORT. 8-bit arithmetic and logic. The flag unit's Z, S and P are those the spec states (`zspOf_zsp`), and the
whole frame of an instruction that computes follows from its listed writes (`computes_of_exec`). Each shared operation
on A, on a register or on the cell at HL then has one lemma, which its instructions use with their own operand and
length. With them the obligations O32 to O40. -/

namespace Sys2Proof.Machine

open Sys2Proof.Spec

/-! ### Zero, Sign and Parity of a byte (10_state.md R27) -/

theorem onesCount_eq_countP (v : Byte) : onesCount v = (List.range 8).countP (fun i => v.getLsbD i) := by
  have hbit (b : Bool) : b.toNat = if b = true then 1 else 0 := by cases b <;> rfl
  simp only [onesCount, hbit, List.range_succ, List.range_zero, List.nil_append, List.cons_append, List.countP_cons,
    List.countP_nil, BitVec.getLsbD, BitVec.getElem_eq_testBit_toNat]
  omega

theorem bit_seven_iff (v : Byte) : v[7] = true ↔ 128 ≤ v.toNat := by
  have hmsb : v[7] = v.msb := by simp [BitVec.msb_eq_getLsbD_last]
  rw [hmsb, BitVec.msb_eq_true_iff_two_mul_ge]
  omega

theorem zspOf_zsp (f : Flags) (res : Byte) : ZspOf (f.zsp res) res := by
  refine ⟨?_, bit_seven_iff res, ?_⟩
  · simp [← BitVec.toNat_inj]
  · rw [← onesCount_eq_countP, Flags.zsp_p, parityEven, beq_iff_eq]

/-! ### Frames -/

section
variable {s t : State}

/-- The frame of an instruction that computes: PC goes on, AC is kept, and only what the tables of the instruction list
is written. POP PSW, the one that writes AC, writes SP. -/
theorem computes_of_exec (i : Instr) (hi : isInternal i = true) (hpc : isTransfer i = false)
    (hsp : writesSp s.flags i = false) (h : exec i s = .next t) :
    Computes (encode i).length (writtenRegs i) (storedTo i s) s t := by
  have hpop : i ≠ .popPsw := by rintro rfl; cases hsp
  obtain ⟨-, -, hac⟩ := flagsAreWrittenOnlyAsTabled i s t h
  exact ⟨pc_of_exec hi hpc h, stackPointerIsWrittenOnlyByItsList i s t h hsp, hac hpop, restBut_of_exec hi h⟩

/-! ### The shared operations on A (41_arithmetic_logic.md R141 to R143) -/

theorem adds_addToA {len : Nat} {v : Byte} {cin : Bool}
    (hframe : Computes len [.A] [] s ((s.advance len).addToA v cin)) :
    Adds len v cin.toNat s ((s.advance len).addToA v cin) :=
  ⟨add8_toNat s.a v cin, decide_eq_true_iff, zspOf_zsp s.flags (add8 s.a v cin), hframe⟩

/-- The true difference reduced mod 256, in natural numbers: 512 covers the operand and the borrow. -/
theorem sub8_toNat_nat (a v : Byte) (bin : Bool) :
    (sub8 a v bin).toNat = (a.toNat + 512 - v.toNat - bin.toNat) % 256 := by
  have hint := sub8_toNat a v bin
  have hv := v.isLt
  have hbin := bin.toNat_le
  omega

theorem afterSub_cy_iff (f : Flags) (a v : Byte) (bin : Bool) :
    (f.afterSub Config.hardware a v bin).cy = true ↔ a.toNat < v.toNat + bin.toNat := by
  rw [Flags.afterSub_cy, decide_eq_true_iff, diff8]
  omega

theorem subtracts_subFromA {len : Nat} {v : Byte} {bin : Bool}
    (hframe : Computes len [.A] [] s ((s.advance len).subFromA Config.hardware v bin)) :
    Subtracts len v bin.toNat s ((s.advance len).subFromA Config.hardware v bin) :=
  ⟨sub8_toNat_nat s.a v bin, afterSub_cy_iff s.flags s.a v bin, zspOf_zsp s.flags (sub8 s.a v bin), hframe⟩

theorem compares_compareA {len : Nat} {v : Byte}
    (hframe : Computes len [] [] s ((s.advance len).compareA Config.hardware v)) :
    Compares len v s ((s.advance len).compareA Config.hardware v) := by
  refine ⟨⟨sub8 s.a v false, ?_, zspOf_zsp s.flags _⟩, afterSub_cy_iff s.flags s.a v false, hframe⟩
  have hv := v.isLt
  rw [sub8_toNat_nat, Bool.toNat_false]
  omega

theorem logic_logicToA {len : Nat} {bit : Bool → Bool → Bool} {v res : Byte}
    (hbits : ∀ k, res.getLsbD k = bit (s.a.getLsbD k) (v.getLsbD k))
    (hframe : Computes len [.A] [] s ((s.advance len).logicToA Config.hardware res)) :
    Logic len bit v s ((s.advance len).logicToA Config.hardware res) :=
  ⟨fun k => hbits k, rfl, zspOf_zsp s.flags res, hframe⟩

/-! ### The shared operations that count (41_arithmetic_logic.md R160 to R163) -/

theorem State.getReg_countReg_same (s : State) (r : Reg) (res : Byte) : (s.countReg r res).getReg r = res := by
  rw [State.countReg, State.getReg_setFlags, State.getReg_setReg_same]

theorem State.readByte_countM_same (s : State) (res : Byte) : (s.countM res).readByte s.hl = res :=
  State.readByte_writeByte_same s s.hl res

/-- A register that takes `res` by `countReg`: the register, Z, S, P and Carry. -/
theorem counts_countReg (s : State) (len : Nat) (r : Reg) (res : Byte) :
    ((s.advance len).countReg r res).getReg r = res ∧
      ZspOf ((s.advance len).countReg r res).flags (((s.advance len).countReg r res).getReg r) ∧
      ((s.advance len).countReg r res).flags.cy = s.flags.cy := by
  rw [State.getReg_countReg_same]
  exact ⟨rfl, zspOf_zsp s.flags res, rfl⟩

/-- The cell at HL that takes `res` by `countM`: the cell, Z, S, P and Carry. -/
theorem counts_countM (s : State) (len : Nat) (res : Byte) :
    ((s.advance len).countM res).readByte s.hl = res ∧
      ZspOf ((s.advance len).countM res).flags (((s.advance len).countM res).readByte s.hl) ∧
      ((s.advance len).countM res).flags.cy = s.flags.cy := by
  have hval : ((s.advance len).countM res).readByte s.hl = res := State.readByte_countM_same (s.advance len) res
  rw [hval]
  exact ⟨rfl, zspOf_zsp s.flags res, rfl⟩

theorem sub_one_toNat (v : Byte) : (v - 1).toNat = (v.toNat + 255) % 256 := by
  rw [BitVec.toNat_sub, Nat.add_comm]
  rfl
end

/-! ### Operands and encodings -/

/-- PC is no operand: the operand of the next address is the operand of the spec (R140). -/
@[simp] theorem State.operand_advance (s : State) (n : Nat) (src : Operand) :
    (s.advance n).operand src = operandValue s src := by
  cases src with
  | reg r => exact State.getReg_advance s n r
  | M => exact State.readByte_advance s n s.hl

/-- The rows `10 yyy sss`: the operation in bits 5:3, the operand in bits 2:0 (30_encoding.md R82, R84). -/
theorem opcodeXYZ_operandCode (yyy : BitVec 3) (src : Operand) :
    opcodeXYZ 0b10 yyy src.code = BitVec.ofNat 8 (0x80 + 8 * yyy.toNat + operandCode src) := by
  cases src with
  | reg r => cases r <;> decide +revert
  | M => decide +revert

theorem encodesF1_of_operandRow {i : Instr} (yyy : BitVec 3) (src : Operand) (hi : i.WellFormed = true)
    (henc : encode i = [opcodeXYZ 0b10 yyy src.code]) : EncodesF1 (0x80 + 8 * yyy.toNat + operandCode src) i :=
  encodesF1_of_encode hi (by rw [henc, opcodeXYZ_operandCode])

/-! ### What each instruction computes, and that it changes nothing else (41_arithmetic_logic.md R144 to R163) -/

theorem exec_add (src : Operand) (s : State) :
    ∃ t, exec (.add src) s = .next t ∧ Adds 1 (operandValue s src) 0 s t := by
  rw [← State.operand_advance s 1]
  exact ⟨_, rfl, adds_addToA (computes_of_exec (.add src) rfl rfl rfl rfl)⟩

theorem exec_adc (src : Operand) (s : State) :
    ∃ t, exec (.adc src) s = .next t ∧ Adds 1 (operandValue s src) s.flags.cy.toNat s t := by
  rw [← State.operand_advance s 1]
  exact ⟨_, rfl, adds_addToA (computes_of_exec (.adc src) rfl rfl rfl rfl)⟩

theorem exec_adi (imm : Byte) (s : State) : ∃ t, exec (.adi imm) s = .next t ∧ Adds 2 imm 0 s t :=
  ⟨_, rfl, adds_addToA (computes_of_exec (.adi imm) rfl rfl rfl rfl)⟩

theorem exec_aci (imm : Byte) (s : State) :
    ∃ t, exec (.aci imm) s = .next t ∧ Adds 2 imm s.flags.cy.toNat s t :=
  ⟨_, rfl, adds_addToA (computes_of_exec (.aci imm) rfl rfl rfl rfl)⟩

theorem exec_sub (src : Operand) (s : State) :
    ∃ t, exec (.sub src) s = .next t ∧ Subtracts 1 (operandValue s src) 0 s t := by
  rw [← State.operand_advance s 1]
  exact ⟨_, rfl, subtracts_subFromA (computes_of_exec (.sub src) rfl rfl rfl rfl)⟩

/-- The borrow taken is Carry itself, since Carry is 1 on a borrow (92_eei_decisions.md D1, D26). -/
theorem exec_sbb (src : Operand) (s : State) :
    ∃ t, exec (.sbb src) s = .next t ∧ Subtracts 1 (operandValue s src) s.flags.cy.toNat s t := by
  rw [← State.operand_advance s 1, ← Flags.borrowIn_hardware]
  exact ⟨_, rfl, subtracts_subFromA (computes_of_exec (.sbb src) rfl rfl rfl rfl)⟩

theorem exec_sui (imm : Byte) (s : State) : ∃ t, exec (.sui imm) s = .next t ∧ Subtracts 2 imm 0 s t :=
  ⟨_, rfl, subtracts_subFromA (computes_of_exec (.sui imm) rfl rfl rfl rfl)⟩

theorem exec_sbi (imm : Byte) (s : State) :
    ∃ t, exec (.sbi imm) s = .next t ∧ Subtracts 2 imm s.flags.cy.toNat s t := by
  rw [← Flags.borrowIn_hardware]
  exact ⟨_, rfl, subtracts_subFromA (computes_of_exec (.sbi imm) rfl rfl rfl rfl)⟩

theorem exec_cmp (src : Operand) (s : State) :
    ∃ t, exec (.cmp src) s = .next t ∧ Compares 1 (operandValue s src) s t := by
  rw [← State.operand_advance s 1]
  exact ⟨_, rfl, compares_compareA (computes_of_exec (.cmp src) rfl rfl rfl rfl)⟩

theorem exec_cpi (imm : Byte) (s : State) : ∃ t, exec (.cpi imm) s = .next t ∧ Compares 2 imm s t :=
  ⟨_, rfl, compares_compareA (computes_of_exec (.cpi imm) rfl rfl rfl rfl)⟩

theorem exec_ana (src : Operand) (s : State) :
    ∃ t, exec (.ana src) s = .next t ∧ Logic 1 (fun x y => x && y) (operandValue s src) s t := by
  rw [← State.operand_advance s 1]
  exact ⟨_, rfl, logic_logicToA (fun _ => BitVec.getLsbD_and) (computes_of_exec (.ana src) rfl rfl rfl rfl)⟩

theorem exec_xra (src : Operand) (s : State) :
    ∃ t, exec (.xra src) s = .next t ∧ Logic 1 (fun x y => x != y) (operandValue s src) s t := by
  rw [← State.operand_advance s 1]
  exact ⟨_, rfl, logic_logicToA (fun _ => BitVec.getLsbD_xor) (computes_of_exec (.xra src) rfl rfl rfl rfl)⟩

theorem exec_ora (src : Operand) (s : State) :
    ∃ t, exec (.ora src) s = .next t ∧ Logic 1 (fun x y => x || y) (operandValue s src) s t := by
  rw [← State.operand_advance s 1]
  exact ⟨_, rfl, logic_logicToA (fun _ => BitVec.getLsbD_or) (computes_of_exec (.ora src) rfl rfl rfl rfl)⟩

theorem exec_ani (imm : Byte) (s : State) :
    ∃ t, exec (.ani imm) s = .next t ∧ Logic 2 (fun x y => x && y) imm s t :=
  ⟨_, rfl, logic_logicToA (fun _ => BitVec.getLsbD_and) (computes_of_exec (.ani imm) rfl rfl rfl rfl)⟩

theorem exec_xri (imm : Byte) (s : State) :
    ∃ t, exec (.xri imm) s = .next t ∧ Logic 2 (fun x y => x != y) imm s t :=
  ⟨_, rfl, logic_logicToA (fun _ => BitVec.getLsbD_xor) (computes_of_exec (.xri imm) rfl rfl rfl rfl)⟩

theorem exec_ori (imm : Byte) (s : State) :
    ∃ t, exec (.ori imm) s = .next t ∧ Logic 2 (fun x y => x || y) imm s t :=
  ⟨_, rfl, logic_logicToA (fun _ => BitVec.getLsbD_or) (computes_of_exec (.ori imm) rfl rfl rfl rfl)⟩

theorem exec_inrR (r : Reg) (s : State) :
    ∃ t, exec (.inrR r) s = .next t ∧ (t.getReg r).toNat = ((s.getReg r).toNat + 1) % 256 ∧
      ZspOf t.flags (t.getReg r) ∧ t.flags.cy = s.flags.cy ∧ Computes 1 [r] [] s t := by
  obtain ⟨hval, hzsp, hcy⟩ := counts_countReg s 1 r ((s.advance 1).getReg r + 1)
  refine ⟨_, rfl, ?_, hzsp, hcy, computes_of_exec (.inrR r) rfl rfl rfl rfl⟩
  rw [hval, State.getReg_advance]
  exact BitVec.toNat_add _ 1

theorem exec_dcrR (r : Reg) (s : State) :
    ∃ t, exec (.dcrR r) s = .next t ∧ (t.getReg r).toNat = ((s.getReg r).toNat + 255) % 256 ∧
      ZspOf t.flags (t.getReg r) ∧ t.flags.cy = s.flags.cy ∧ Computes 1 [r] [] s t := by
  obtain ⟨hval, hzsp, hcy⟩ := counts_countReg s 1 r ((s.advance 1).getReg r - 1)
  refine ⟨_, rfl, ?_, hzsp, hcy, computes_of_exec (.dcrR r) rfl rfl rfl rfl⟩
  rw [hval, State.getReg_advance, sub_one_toNat]

theorem exec_inrM (s : State) :
    ∃ t, exec .inrM s = .next t ∧ (t.readByte s.hl).toNat = ((s.readByte s.hl).toNat + 1) % 256 ∧
      ZspOf t.flags (t.readByte s.hl) ∧ t.flags.cy = s.flags.cy ∧ Computes 1 [] [s.hl] s t := by
  obtain ⟨hval, hzsp, hcy⟩ := counts_countM s 1 (s.readByte s.hl + 1)
  refine ⟨_, rfl, ?_, hzsp, hcy, computes_of_exec .inrM rfl rfl rfl rfl⟩
  exact (congrArg BitVec.toNat hval).trans (BitVec.toNat_add _ 1)

theorem exec_dcrM (s : State) :
    ∃ t, exec .dcrM s = .next t ∧ (t.readByte s.hl).toNat = ((s.readByte s.hl).toNat + 255) % 256 ∧
      ZspOf t.flags (t.readByte s.hl) ∧ t.flags.cy = s.flags.cy ∧ Computes 1 [] [s.hl] s t := by
  obtain ⟨hval, hzsp, hcy⟩ := counts_countM s 1 (s.readByte s.hl - 1)
  refine ⟨_, rfl, ?_, hzsp, hcy, computes_of_exec .dcrM rfl rfl rfl rfl⟩
  exact (congrArg BitVec.toNat hval).trans (sub_one_toNat _)

/-! ### The obligations -/

/-- Settles O32: the sum of A, the operand and the carry-in is below 512, so Carry is its bit 8. -/
theorem additionsOfAnOperand : Obligations.AdditionsOfAnOperand := fun src =>
  ⟨⟨encodesF1_of_operandRow 0 src rfl rfl, exec_add src⟩, encodesF1_of_operandRow 1 src rfl rfl, exec_adc src⟩

/-- Settles O33: the same sum, of the immediate byte. -/
theorem additionsOfAnImmediate : Obligations.AdditionsOfAnImmediate :=
  ⟨⟨encodesF2_of_encode (fun _ => rfl) fun _ => rfl, exec_adi⟩,
    encodesF2_of_encode (fun _ => rfl) fun _ => rfl, exec_aci⟩

/-- Settles O34: the true difference is negative exactly when A is below the operand and the borrow-in. -/
theorem subtractionsOfAnOperand : Obligations.SubtractionsOfAnOperand := fun src =>
  ⟨⟨encodesF1_of_operandRow 2 src rfl rfl, exec_sub src⟩, encodesF1_of_operandRow 3 src rfl rfl, exec_sbb src⟩

/-- Settles O35: the same difference, of the immediate byte. -/
theorem subtractionsOfAnImmediate : Obligations.SubtractionsOfAnImmediate :=
  ⟨⟨encodesF2_of_encode (fun _ => rfl) fun _ => rfl, exec_sui⟩,
    encodesF2_of_encode (fun _ => rfl) fun _ => rfl, exec_sbi⟩

/-- Settles O36: the flags are those of a subtraction without a borrow-in, and no register is written. -/
theorem comparisonsKeepTheAccumulator : Obligations.ComparisonsKeepTheAccumulator :=
  ⟨fun src => ⟨encodesF1_of_operandRow 7 src rfl rfl, exec_cmp src⟩,
    encodesF2_of_encode (fun _ => rfl) fun _ => rfl, exec_cpi⟩

/-- Settles O37: each bit of the result is that of the bit-wise operation, and `zsp` leaves Carry. -/
theorem logicOnAnOperand : Obligations.LogicOnAnOperand := fun src =>
  ⟨⟨encodesF1_of_operandRow 4 src rfl rfl, exec_ana src⟩, ⟨encodesF1_of_operandRow 5 src rfl rfl, exec_xra src⟩,
    encodesF1_of_operandRow 6 src rfl rfl, exec_ora src⟩

/-- Settles O38: the same operations, of the immediate byte. -/
theorem logicOnAnImmediate : Obligations.LogicOnAnImmediate :=
  ⟨⟨encodesF2_of_encode (fun _ => rfl) fun _ => rfl, exec_ani⟩,
    ⟨encodesF2_of_encode (fun _ => rfl) fun _ => rfl, exec_xri⟩,
    encodesF2_of_encode (fun _ => rfl) fun _ => rfl, exec_ori⟩

/-- Settles O39: the register reads as the byte counted, and `zsp` leaves Carry. -/
theorem registersCountByOne : Obligations.RegistersCountByOne := by
  refine fun r => ⟨⟨encodesF1_of_encode rfl ?inr, exec_inrR r⟩, encodesF1_of_encode rfl ?dcr, exec_dcrR r⟩
  case inr | dcr => cases r <;> rfl

/-- Settles O40: the count leaves H and L as they are, so the cell at the old HL is the one written. -/
theorem cellsCountByOne : Obligations.CellsCountByOne :=
  ⟨⟨encodesF1_of_encode rfl rfl, exec_inrM⟩, encodesF1_of_encode rfl rfl, exec_dcrM⟩

end Sys2Proof.Machine
end

section
/-! SUPPORT. 16-bit arithmetic. INX and DCX add a constant word, 1 or -1, to one pair and write no flag, so they share
one lemma (`addsToPair_of_exec`). DAD takes HL and Carry from the one true sum. With them the obligations O41 and O42. -/

namespace Sys2Proof.Machine

open Sys2Proof.Spec

/-! ### Values: PC is no pair (00_scope.md R15) -/

@[simp] theorem State.getPair_advance (s : State) (n : Nat) (p : Pair) : (s.advance n).getPair p = s.getPair p := by
  cases p <;> rfl

theorem pairValue_setPair_same (s : State) (p : Pair) (w : Word) : pairValue (s.setPair p w) p = w.toNat := by
  rw [pairValue_eq_getPair, State.getPair_setPair]

theorem sum16_hl_getPair (s : State) (p : Pair) : sum16 s.hl (s.getPair p) = pairValue s .HL + pairValue s p := by
  rw [sum16, State.hl_toNat, pairValue_eq_getPair s p, pairValue]

/-! ### What each instruction computes, and that it changes nothing else (42_arith16.md R181, R182, R184) -/

/-- The pair, SP too, has `k` more, mod 65536, PC is one byte on, and nothing else is changed. -/
def AddsToPair (p : Pair) (k : Nat) (s t : State) : Prop :=
  pairValue t p = (pairValue s p + k) % 65536 ∧ t.pc = s.pc + 1 ∧ (p ≠ .SP → t.sp = s.sp) ∧ t.flags = s.flags ∧
    RestBut (pairRegs p) [] s t

theorem addsToPair_of_exec (i : Instr) {s : State} {p : Pair} {d : Word} (hi : onlyMoves i = true)
    (hregs : writtenRegs i = pairRegs p) (hmem : storedTo i s = [])
    (h : exec i s = .next ((s.advance 1).setPair p (s.getPair p + d))) :
    ∃ t, exec i s = .next t ∧ AddsToPair p d.toNat s t := by
  obtain ⟨hint, -, -, -⟩ := onlyMoves_iff.mp hi
  have hrest := restBut_of_exec hint h
  rw [hregs, hmem] at hrest
  refine ⟨_, h, ?_, State.setPair_pc _ p _, fun hp => State.setPair_sp _ hp _, flags_of_exec hi h, hrest⟩
  rw [pairValue_setPair_same, pairValue_eq_getPair, BitVec.toNat_add]

theorem exec_inx (p : Pair) (s : State) : ∃ t, exec (.inx p) s = .next t ∧ AddsToPair p 1 s t := by
  refine addsToPair_of_exec (.inx p) (d := 1) rfl rfl rfl ?_
  rw [← State.getPair_advance s 1]
  rfl

/-- One less is 0xFFFF more, mod 65536. -/
theorem exec_dcx (p : Pair) (s : State) : ∃ t, exec (.dcx p) s = .next t ∧ AddsToPair p 65535 s t := by
  refine addsToPair_of_exec (.dcx p) (d := -1) rfl rfl rfl ?_
  rw [← State.getPair_advance s 1, ← BitVec.sub_eq_add_neg]
  rfl

theorem exec_dad (p : Pair) (s : State) :
    ∃ t, exec (.dad p) s = .next t ∧ pairValue t .HL = (pairValue s .HL + pairValue s p) % 65536 ∧
      (t.flags.cy = true ↔ 65535 < pairValue s .HL + pairValue s p) ∧
      t.flags.z = s.flags.z ∧ t.flags.s = s.flags.s ∧ t.flags.p = s.flags.p ∧ Computes 1 [.H, .L] [] s t := by
  rw [← sum16_hl_getPair, ← State.getPair_advance s 1]
  exact ⟨_, rfl, (pairValue_setPair_same (s.advance 1) .HL _).trans (BitVec.toNat_ofNat _ _), decide_eq_true_iff,
    rfl, rfl, rfl, computes_of_exec (.dad p) rfl rfl rfl rfl⟩

/-! ### The obligations -/

/-- Settles O41: INX adds the word 1 and DCX the word -1, 0xFFFF, and the pair is their only write but PC. -/
theorem pairsCountByOne : Obligations.PairsCountByOne := by
  refine fun p => ⟨⟨encodesF1_of_encode rfl ?inx, exec_inx p⟩, encodesF1_of_encode rfl ?dcx, exec_dcx p⟩
  case inx | dcx => cases p <;> rfl

/-- Settles O42: HL is the true sum mod 65536, and Carry tells whether it passed 65535. -/
theorem dadAddsAPairToHl : Obligations.DadAddsAPairToHl := by
  refine fun p => ⟨encodesF1_of_encode rfl ?_, exec_dad p⟩
  cases p <;> rfl

end Sys2Proof.Machine
end

section
/-! SUPPORT. Rotates. All four shift A by one bit and put a bit of their own choice into the vacated place: the bit
moved out for RLC and RRC, the old Carry for RAL and RAR (`State.shiftLeftA`, `State.shiftRightA`). So RLC and RRC
rotate the 8 bits of A, and RAL and RAR the 9 bits of Carry and A (`State.throughCarry`); the round trips are those of
rotating a bit vector. With them the obligations O43 and O44. -/

namespace Sys2Proof.Machine

open Sys2Proof.Spec

/-! ### A shift by one bit that takes a bit in -/

/-- A one bit to the left, `b` into bit 0, bit 7 to Carry. -/
def State.shiftLeftA (s : State) (b : Bool) : State :=
  (s.advance 1).rotateA ((s.a <<< 1) ||| BitVec.zeroExtend 8 (BitVec.ofBool b)) s.a[7]

/-- A one bit to the right, `b` into bit 7, bit 0 to Carry. -/
def State.shiftRightA (s : State) (b : Bool) : State :=
  (s.advance 1).rotateA ((s.a >>> 1) ||| (BitVec.zeroExtend 8 (BitVec.ofBool b) <<< 7)) s.a[0]

/-- The state RLC leaves: the bit moved out is the bit taken in (R191). -/
def State.rlc (s : State) : State := s.shiftLeftA s.a[7]

/-- The state RRC leaves: the bit moved out is the bit taken in (R192). -/
def State.rrc (s : State) : State := s.shiftRightA s.a[0]

/-- The state RAL leaves: the old Carry is the bit taken in (R193). -/
def State.ral (s : State) : State := s.shiftLeftA s.flags.cy

/-- The state RAR leaves: the old Carry is the bit taken in (R194). -/
def State.rar (s : State) : State := s.shiftRightA s.flags.cy

theorem exec_rlc (s : State) : exec .rlc s = .next s.rlc := rfl
theorem exec_rrc (s : State) : exec .rrc s = .next s.rrc := rfl
theorem exec_ral (s : State) : exec .ral s = .next s.ral := rfl
theorem exec_rar (s : State) : exec .rar s = .next s.rar := rfl

/-! ### The byte and Carry as numbers (43_rotates.md R190 to R194) -/

theorem zeroExtend_ofBool_toNat (b : Bool) : (BitVec.zeroExtend 8 (BitVec.ofBool b)).toNat = b.toNat := by
  cases b <;> rfl

/-- The bit taken in is below the others, so joining it is adding it. -/
theorem shiftLeft_or_ofBool_toNat (v : Byte) (b : Bool) :
    ((v <<< 1) ||| BitVec.zeroExtend 8 (BitVec.ofBool b)).toNat = (2 * v.toNat) % 256 + b.toNat := by
  have hshift : v.toNat <<< 1 % 2 ^ 8 = (v.toNat % 128) <<< 1 := by omega
  have hb : b.toNat < 2 ^ 1 := b.toNat_lt
  rw [BitVec.toNat_or, zeroExtend_ofBool_toNat, BitVec.toNat_shiftLeft, hshift, ← Nat.shiftLeft_add_eq_or_of_lt hb]
  omega

/-- The bit taken in is above the others, so joining it is adding it. -/
theorem shiftRight_or_ofBool_toNat (v : Byte) (b : Bool) :
    ((v >>> 1) ||| (BitVec.zeroExtend 8 (BitVec.ofBool b) <<< 7)).toNat = v.toNat / 2 + 128 * b.toNat := by
  have hv : v.toNat >>> 1 < 2 ^ 7 := by omega
  have hshift : b.toNat <<< 7 % 2 ^ 8 = b.toNat <<< 7 := by cases b <;> rfl
  rw [BitVec.toNat_or, BitVec.toNat_shiftLeft, zeroExtend_ofBool_toNat, BitVec.toNat_ushiftRight, hshift, Nat.or_comm,
    ← Nat.shiftLeft_add_eq_or_of_lt hv]
  omega

theorem bit_zero_toNat (v : Byte) : v[0].toNat = v.toNat % 2 := by
  rw [BitVec.getElem_eq_testBit_toNat, Nat.toNat_testBit, Nat.pow_zero, Nat.div_one]

theorem bit_zero_iff (v : Byte) : v[0] = true ↔ v.toNat % 2 = 1 := by
  rw [← bit_zero_toNat, Bool.toNat_eq_one]

theorem bit_seven_toNat (v : Byte) : v[7].toNat = v.toNat / 128 := by
  have hv : v.toNat < 256 := v.isLt
  rw [BitVec.getElem_eq_testBit_toNat, Nat.toNat_testBit]
  omega

section
variable {s : State} {b : Bool}

theorem rotates_shiftLeftA (hframe : Computes 1 [.A] [] s (s.shiftLeftA b)) :
    Rotates ((2 * s.a.toNat) % 256 + b.toNat) (128 ≤ s.a.toNat) s (s.shiftLeftA b) :=
  ⟨shiftLeft_or_ofBool_toNat s.a b, bit_seven_iff s.a, rfl, rfl, rfl, hframe⟩

theorem rotates_shiftRightA (hframe : Computes 1 [.A] [] s (s.shiftRightA b)) :
    Rotates (s.a.toNat / 2 + 128 * b.toNat) (s.a.toNat % 2 = 1) s (s.shiftRightA b) :=
  ⟨shiftRight_or_ofBool_toNat s.a b, bit_zero_iff s.a, rfl, rfl, rfl, hframe⟩
end

theorem rotates_rlc (s : State) :
    Rotates ((2 * s.a.toNat) % 256 + s.a.toNat / 128) (128 ≤ s.a.toNat) s s.rlc := by
  have hrot := rotates_shiftLeftA (computes_of_exec .rlc rfl rfl rfl (exec_rlc s))
  rwa [bit_seven_toNat] at hrot

theorem rotates_rrc (s : State) :
    Rotates (s.a.toNat / 2 + 128 * (s.a.toNat % 2)) (s.a.toNat % 2 = 1) s s.rrc := by
  have hrot := rotates_shiftRightA (computes_of_exec .rrc rfl rfl rfl (exec_rrc s))
  rwa [bit_zero_toNat] at hrot

theorem rotates_ral (s : State) :
    Rotates ((2 * s.a.toNat) % 256 + s.flags.cy.toNat) (128 ≤ s.a.toNat) s s.ral :=
  rotates_shiftLeftA (computes_of_exec .ral rfl rfl rfl (exec_ral s))

theorem rotates_rar (s : State) :
    Rotates (s.a.toNat / 2 + 128 * s.flags.cy.toNat) (s.a.toNat % 2 = 1) s s.rar :=
  rotates_shiftRightA (computes_of_exec .rar rfl rfl rfl (exec_rar s))

/-! ### Rotating a bit vector -/

/-- Bit by bit; the amount starts again from 0 where `n + 1` reaches the width. -/
theorem rotateLeft_rotateLeft_one {w : Nat} (hw : 1 < w) (v : BitVec w) (n : Nat) :
    (v.rotateLeft n).rotateLeft 1 = v.rotateLeft (n + 1) := by
  have hone : 1 % w = 1 := Nat.mod_eq_of_lt hw
  have hn := Nat.mod_lt n (Nat.zero_lt_of_lt hw)
  ext i hi
  obtain hlast | hlt : n % w + 1 = w ∨ n % w + 1 < w := by omega
  · simp only [BitVec.getElem_rotateLeft, hone, Nat.add_mod n 1 w, hlast, Nat.mod_self]
    grind
  · simp only [BitVec.getElem_rotateLeft, hone, Nat.add_mod n 1 w, Nat.mod_eq_of_lt hlt]
    grind

theorem rotateLeft_zero {w : Nat} (v : BitVec w) : v.rotateLeft 0 = v := by
  simp [BitVec.rotateLeft_def, BitVec.ushiftRight_eq_zero]

theorem rotateLeft_width {w : Nat} (v : BitVec w) : v.rotateLeft w = v := by
  rw [← BitVec.rotateLeft_mod_eq_rotateLeft, Nat.mod_self, rotateLeft_zero]

theorem iterate_rotateLeft_one {w : Nat} (hw : 1 < w) (v : BitVec w) (n : Nat) :
    (fun x : BitVec w => x.rotateLeft 1)^[n] v = v.rotateLeft n := by
  induction n with
  | zero => exact (rotateLeft_zero v).symm
  | succ n ih => rw [Function.iterate_succ_apply', ih, rotateLeft_rotateLeft_one hw]

theorem rotateRight_rotateLeft {w : Nat} (n : Nat) (v : BitVec w) : (v.rotateLeft n).rotateRight n = v := by
  ext i hi
  have hn := Nat.mod_lt n (Nat.zero_lt_of_lt hi)
  simp only [BitVec.getElem_rotateLeft, BitVec.getElem_rotateRight]
  grind

theorem rotateLeft_rotateRight {w : Nat} (n : Nat) (v : BitVec w) : (v.rotateRight n).rotateLeft n = v := by
  ext i hi
  have hn := Nat.mod_lt n (Nat.zero_lt_of_lt hi)
  simp only [BitVec.getElem_rotateLeft, BitVec.getElem_rotateRight]
  grind

theorem rotateLeft_four_toNat (v : Byte) : (v.rotateLeft 4).toNat = 16 * (v.toNat % 16) + v.toNat / 16 := by
  have hv := v.isLt
  have hshift : v.toNat <<< 4 % 2 ^ 8 = (v.toNat % 16) <<< 4 := by omega
  have hhigh : v.toNat >>> 4 < 2 ^ 4 := by omega
  rw [BitVec.toNat_rotateLeft, hshift, ← Nat.shiftLeft_add_eq_or_of_lt hhigh]
  omega

/-- A byte with its halves exchanged is itself exactly when they are equal (90_conflicts.md C4). -/
theorem rotateLeft_four_eq_self_iff (v : Byte) : v.rotateLeft 4 = v ↔ v.toNat / 16 = v.toNat % 16 := by
  have hv := v.isLt
  rw [← BitVec.toNat_inj, rotateLeft_four_toNat]
  omega

/-! ### What the shifts rotate: the bits of A, or those of Carry and A -/

theorem getElem_shiftLeft_or_ofBool (v : Byte) (b : Bool) {i : Nat} (hi : i < 8) :
    ((v <<< 1) ||| BitVec.zeroExtend 8 (BitVec.ofBool b))[i] = if i = 0 then b else v[i - 1] := by
  cases i <;> simp

theorem getElem_shiftRight_or_ofBool (v : Byte) (b : Bool) {i : Nat} (hi : i < 8) :
    ((v >>> 1) ||| (BitVec.zeroExtend 8 (BitVec.ofBool b) <<< 7))[i] = if h : i = 7 then b else v[i + 1] := by
  by_cases h : i = 7
  · subst h
    simp
  · have hlt : i < 7 := by omega
    simpa [h, hlt, Nat.add_comm 1 i] using BitVec.getLsbD_eq_getElem (x := v) (by omega)

/-- Carry above the bits of A: the 9 bits RAL and RAR rotate (R193, R194). -/
def State.throughCarry (s : State) : BitVec 9 := BitVec.cons s.flags.cy s.a

theorem State.rlc_a (s : State) : s.rlc.a = s.a.rotateLeft 1 := by
  ext i hi
  rw [BitVec.getElem_rotateLeft]
  exact (getElem_shiftLeft_or_ofBool s.a s.a[7] hi).trans (by grind)

theorem State.rrc_a (s : State) : s.rrc.a = s.a.rotateRight 1 := by
  ext i hi
  rw [BitVec.getElem_rotateRight]
  exact (getElem_shiftRight_or_ofBool s.a s.a[0] hi).trans (by grind)

theorem State.rlc_cy (s : State) : s.rlc.flags.cy = s.rlc.a.getLsbD 0 :=
  (getElem_shiftLeft_or_ofBool s.a s.a[7] (i := 0) (by decide)).symm

theorem State.rrc_cy (s : State) : s.rrc.flags.cy = s.rrc.a.getLsbD 7 :=
  (getElem_shiftRight_or_ofBool s.a s.a[0] (i := 7) (by decide)).symm

theorem State.throughCarry_shiftLeftA (s : State) (b : Bool) :
    (s.shiftLeftA b).throughCarry = BitVec.cons s.a[7] ((s.a <<< 1) ||| BitVec.zeroExtend 8 (BitVec.ofBool b)) := rfl

theorem State.throughCarry_shiftRightA (s : State) (b : Bool) :
    (s.shiftRightA b).throughCarry =
      BitVec.cons s.a[0] ((s.a >>> 1) ||| (BitVec.zeroExtend 8 (BitVec.ofBool b) <<< 7)) := rfl

theorem State.ral_throughCarry (s : State) : s.ral.throughCarry = s.throughCarry.rotateLeft 1 := by
  ext i hi
  rw [State.ral, State.throughCarry_shiftLeftA, State.throughCarry]
  simp only [BitVec.getElem_cons, BitVec.getElem_rotateLeft, getElem_shiftLeft_or_ofBool]
  grind

theorem State.rar_throughCarry (s : State) : s.rar.throughCarry = s.throughCarry.rotateRight 1 := by
  ext i hi
  rw [State.rar, State.throughCarry_shiftRightA, State.throughCarry]
  simp only [BitVec.getElem_cons, BitVec.getElem_rotateRight, getElem_shiftRight_or_ofBool]
  grind

/-- The flags a rotate does not write (R190), with Carry cleared. -/
def State.flagsButCarry (s : State) : Flags := s.flags.withCarry false

theorem State.flagsButCarry_ral (s : State) : s.ral.flagsButCarry = s.flagsButCarry := rfl

theorem State.a_and_flags_eq {s t : State} (hcarry : t.throughCarry = s.throughCarry)
    (hflags : t.flagsButCarry = s.flagsButCarry) : t.a = s.a ∧ t.flags = s.flags := by
  have hcy : t.flags.cy = s.flags.cy := by simpa [State.throughCarry] using congrArg BitVec.msb hcarry
  constructor
  · simpa [State.throughCarry] using congrArg (BitVec.setWidth 8) hcarry
  · calc t.flags = t.flagsButCarry.withCarry t.flags.cy := rfl
      _ = s.flagsButCarry.withCarry s.flags.cy := by rw [hflags, hcy]

/-! ### The same rotate again and again -/

theorem execAll_replicate {i : Instr} {f : State → State} (h : ∀ s, exec i s = .next (f s)) (n : Nat) (s : State) :
    execAll (List.replicate n i) s = some (f^[n] s) := by
  induction n generalizing s with
  | zero => rfl
  | succ n ih => rw [List.replicate_succ, execAll, h]; exact ih (f s)

theorem State.iterate_rlc_a (n : Nat) (s : State) : (State.rlc^[n] s).a = s.a.rotateLeft n :=
  have hcomm : Function.Semiconj State.a State.rlc (fun v => v.rotateLeft 1) := State.rlc_a
  (hcomm.iterate_right n s).trans (iterate_rotateLeft_one (by decide) s.a n)

/-- RRC undoes RLC, so eight RRCs undo eight RLCs, which rotate by the whole width. -/
theorem State.iterate_rrc_eight_a (s : State) : (State.rrc^[8] s).a = s.a := by
  have hcomm : Function.Semiconj State.a State.rrc (fun v => v.rotateRight 1) := State.rrc_a
  have hundo : Function.LeftInverse (fun v : Byte => v.rotateRight 1) (fun v => v.rotateLeft 1) :=
    rotateRight_rotateLeft 1
  have height := hundo.iterate 8 s.a
  rw [iterate_rotateLeft_one (by decide), rotateLeft_width] at height
  exact (hcomm.iterate_right 8 s).trans height

theorem State.iterate_ral_throughCarry (n : Nat) (s : State) :
    (State.ral^[n] s).throughCarry = s.throughCarry.rotateLeft n :=
  have hcomm : Function.Semiconj State.throughCarry State.ral (fun v => v.rotateLeft 1) := State.ral_throughCarry
  (hcomm.iterate_right n s).trans (iterate_rotateLeft_one (by decide) s.throughCarry n)

theorem State.iterate_ral_flagsButCarry (n : Nat) (s : State) :
    (State.ral^[n] s).flagsButCarry = s.flagsButCarry := by
  induction n with
  | zero => rfl
  | succ n ih => rw [Function.iterate_succ_apply', State.flagsButCarry_ral, ih]

/-! ### The round trips (43_rotates.md R193 to R195) -/

/-- Carry is bit 0 of A after every RLC, the last one too. -/
theorem eight_rlc_restore (s : State) :
    ∃ t, execAll (List.replicate 8 .rlc) s = some t ∧ t.a = s.a ∧ t.flags.cy = s.a.getLsbD 0 := by
  have ha : (State.rlc^[8] s).a = s.a := by rw [State.iterate_rlc_a, rotateLeft_width]
  refine ⟨_, execAll_replicate exec_rlc 8 s, ha, ?_⟩
  rw [← ha, Function.iterate_succ_apply', State.rlc_cy]

/-- Carry is bit 7 of A after every RRC, the last one too. -/
theorem eight_rrc_restore (s : State) :
    ∃ t, execAll (List.replicate 8 .rrc) s = some t ∧ t.a = s.a ∧ t.flags.cy = s.a.getLsbD 7 := by
  have ha := State.iterate_rrc_eight_a s
  refine ⟨_, execAll_replicate exec_rrc 8 s, ha, ?_⟩
  rw [← ha, Function.iterate_succ_apply', State.rrc_cy]

theorem rlc_rrc_restore (s : State) :
    ∃ t, execAll [.rlc, .rrc] s = some t ∧ t.a = s.a ∧ t.flags.cy = s.a.getLsbD 7 := by
  have ha : s.rlc.rrc.a = s.a := by rw [State.rrc_a, State.rlc_a, rotateRight_rotateLeft]
  refine ⟨s.rlc.rrc, rfl, ha, ?_⟩
  rw [State.rrc_cy, ha]

theorem four_rlc_exchange_halves (s : State) :
    ∃ t, execAll (List.replicate 4 .rlc) s = some t ∧ t.a.toNat = 16 * (s.a.toNat % 16) + s.a.toNat / 16 ∧
      (t.a = s.a ↔ s.a.toNat / 16 = s.a.toNat % 16) := by
  refine ⟨_, execAll_replicate exec_rlc 4 s, ?_⟩
  rw [State.iterate_rlc_a]
  exact ⟨rotateLeft_four_toNat s.a, rotateLeft_four_eq_self_iff s.a⟩

theorem nine_ral_restore (s : State) :
    ∃ t, execAll (List.replicate 9 .ral) s = some t ∧ t.a = s.a ∧ t.flags = s.flags := by
  refine ⟨_, execAll_replicate exec_ral 9 s, State.a_and_flags_eq ?_ (State.iterate_ral_flagsButCarry 9 s)⟩
  rw [State.iterate_ral_throughCarry, rotateLeft_width]

theorem ral_rar_restore (s : State) : ∃ t, execAll [.ral, .rar] s = some t ∧ t.a = s.a ∧ t.flags = s.flags := by
  refine ⟨s.ral.rar, rfl, State.a_and_flags_eq ?_ rfl⟩
  rw [State.rar_throughCarry, State.ral_throughCarry, rotateRight_rotateLeft]

theorem rar_ral_restore (s : State) : ∃ t, execAll [.rar, .ral] s = some t ∧ t.a = s.a ∧ t.flags = s.flags := by
  refine ⟨s.rar.ral, rfl, State.a_and_flags_eq ?_ rfl⟩
  rw [State.ral_throughCarry, State.rar_throughCarry, rotateLeft_rotateRight]

/-! ### The obligations -/

/-- Settles O43: the bit taken in does not overlap the others, so A is a sum, and Carry is the bit moved out. -/
theorem rotatesMoveOneBit : Obligations.RotatesMoveOneBit :=
  ⟨⟨encodesF1_of_encode rfl rfl, fun s => ⟨s.rlc, exec_rlc s, rotates_rlc s⟩⟩,
    ⟨encodesF1_of_encode rfl rfl, fun s => ⟨s.rrc, exec_rrc s, rotates_rrc s⟩⟩,
    ⟨encodesF1_of_encode rfl rfl, fun s => ⟨s.ral, exec_ral s, rotates_ral s⟩⟩,
    encodesF1_of_encode rfl rfl, fun s => ⟨s.rar, exec_rar s, rotates_rar s⟩⟩

/-- Settles O44: RLC and RRC rotate 8 bits, RAL and RAR 9, and rotating by the width or there and back is no change. -/
theorem rotatesRoundTrip : Obligations.RotatesRoundTrip := fun s =>
  ⟨eight_rlc_restore s, eight_rrc_restore s, rlc_rrc_restore s, four_rlc_exchange_halves s, nine_ral_restore s,
    ral_rar_restore s, rar_ral_restore s⟩

end Sys2Proof.Machine
end

section
/-! SUPPORT. Control transfer. A conditional transfer leaves the state of JMP, CALL or RET where it is taken, and the
state with PC moved on where it is not (44_control_transfer.md R233): so it is one instruction for each condition
(`jumpOn`, `callOn`, `returnOn`), and the frames are those of the unconditional transfers. That a return comes back
rests on the pushed word alone (`returnsTo_of_pushes`), whoever pushed it. With them the obligations O45 to O50. -/

namespace Sys2Proof.Machine

open Sys2Proof.Spec

/-! ### The stack engine (44_control_transfer.md R200 to R202) -/

theorem pushes_push16 (s : State) (w : Word) : Pushes w.toNat s (s.push16 w) := by
  refine ⟨?_, ?_, s.push16_sp w⟩
  · rw [State.readByte_push16, if_pos rfl, hiByte_toNat]
  · rw [State.readByte_push16, if_neg (Word.sub_one_ne_sub_two s.sp).symm, if_pos rfl, loByte_toNat]

theorem pushes_acceptInterrupt (s : State) (n : VectorIndex) : Pushes s.pc.toNat s (s.acceptInterrupt n) :=
  pushes_push16 s s.pc

theorem popValue_toNat (s : State) : s.popValue.toNat = topOfStack s := joinBytes_toNat _ _

/-! ### The unconditional transfers: only a call stores, and only a call or a return writes SP -/

/-- A jump changes nothing but PC: whatever PC was, this is the state JMP leaves. -/
theorem jumps_setPC (target : Word) (s : State) :
    (s.setPC target).pc = target ∧ (s.setPC target).sp = s.sp ∧ (s.setPC target).flags = s.flags ∧
      RestBut [] [] s (s.setPC target) :=
  ⟨rfl, rfl, rfl, restBut_of_exec (i := .jmp target) rfl rfl⟩

/-- What is pushed is the PC moved on, the address after the instruction. -/
theorem calls_callTo {len : Nat} {target : Word} {s : State}
    (hrest : RestBut [] [s.sp - 1, s.sp - 2] s ((s.advance len).callTo target)) :
    Calls len target s ((s.advance len).callTo target) :=
  ⟨pushes_push16 s (s.pc + BitVec.ofNat 16 len), rfl, rfl, hrest⟩

theorem calls_call (addr : Word) (s : State) : Calls 3 addr s ((s.advance 3).callTo addr) :=
  calls_callTo (restBut_of_exec (i := .call addr) rfl rfl)

theorem calls_rst (n : Fin 8) (s : State) :
    Calls 1 (BitVec.ofNat 16 (8 * n.val)) s ((s.advance 1).callTo (BitVec.ofNat 16 (8 * n.val))) :=
  calls_callTo (restBut_of_exec (i := .rst n) rfl rfl)

theorem returns_ret (s : State) : Returns s (s.advance 1).returnFromCall :=
  ⟨popValue_toNat s, rfl, rfl, restBut_of_exec (i := .ret) rfl rfl⟩

theorem moves_advance (len : Nat) (s : State) : Moves len [] [] s (s.advance len) :=
  ⟨rfl, rfl, rfl, fun r _ => s.getReg_advance len r, fun x _ => s.readByte_advance len x,
    ⟨rfl, rfl, rfl, rfl⟩, rfl, rfl, rfl, rfl, rfl⟩

/-! ### The eight conditions (44_control_transfer.md R203) -/

/-- The flag a condition tests. -/
def condFlag : Cond → Flags → Bool
  | .NZ | .Z => Flags.z
  | .NC | .C => Flags.cy
  | .PO | .PE => Flags.p
  | .P | .M => Flags.s

/-- The value of its flag with which a condition holds. -/
def condValue : Cond → Bool
  | .NZ | .NC | .PO | .P => false
  | .Z | .C | .PE | .M => true

theorem cond_eq_flag (f : Flags) (cond : Cond) : f.cond cond = (condFlag cond f == condValue cond) := by
  cases cond
  case NZ | NC | PO | P => exact (beq_false _).symm
  case Z | C | PE | M => exact (beq_true _).symm

theorem cond_eq_true {f : Flags} {cond : Cond} (h : condFlag cond f = condValue cond) : f.cond cond = true :=
  (cond_eq_flag f cond).trans (beq_iff_eq.mpr h)

theorem cond_eq_false {f : Flags} {cond : Cond} (h : condFlag cond f ≠ condValue cond) : f.cond cond = false :=
  (cond_eq_flag f cond).trans (beq_eq_false_iff_ne.mpr h)

/-! ### The conditional transfers, taken and not (44_control_transfer.md R233) -/

/-- The conditional jump of a condition (R205 to R212). -/
def jumpOn : Cond → Word → Instr
  | .NZ => .jnz | .Z => .jz | .NC => .jnc | .C => .jc | .PO => .jpo | .PE => .jpe | .P => .jp | .M => .jm

/-- The conditional call of a condition (R214 to R221). -/
def callOn : Cond → Word → Instr
  | .NZ => .cnz | .Z => .cz | .NC => .cnc | .C => .cc | .PO => .cpo | .PE => .cpe | .P => .cp | .M => .cm

/-- The conditional return of a condition (R223 to R230). -/
def returnOn : Cond → Instr
  | .NZ => .rnz | .Z => .rz | .NC => .rnc | .C => .rc | .PO => .rpo | .PE => .rpe | .P => .rp | .M => .rm

theorem exec_jumpOn (cond : Cond) (addr : Word) (s : State) :
    exec (jumpOn cond addr) s = .next ((s.advance 3).jumpIf cond addr) := by
  cases cond <;> rfl

theorem exec_callOn (cond : Cond) (addr : Word) (s : State) :
    exec (callOn cond addr) s = .next ((s.advance 3).callIf cond addr) := by
  cases cond <;> rfl

theorem exec_returnOn (cond : Cond) (s : State) : exec (returnOn cond) s = .next ((s.advance 1).returnIf cond) := by
  cases cond <;> rfl

theorem encodesF3_jumpOn (cond : Cond) : EncodesF3 (0xC2 + 8 * cond.code.toNat) (jumpOn cond) := by
  cases cond <;> exact encodesF3_of_encode (fun _ => rfl) fun _ => rfl

theorem encodesF3_callOn (cond : Cond) : EncodesF3 (0xC4 + 8 * cond.code.toNat) (callOn cond) := by
  cases cond <;> exact encodesF3_of_encode (fun _ => rfl) fun _ => rfl

theorem encodesF1_returnOn (cond : Cond) : EncodesF1 (0xC0 + 8 * cond.code.toNat) (returnOn cond) := by
  cases cond <;> exact encodesF1_of_encode rfl rfl

theorem jumpsWhen_jumpOn (cond : Cond) :
    JumpsWhen (0xC2 + 8 * cond.code.toNat) (jumpOn cond) (condFlag cond) (condValue cond) := by
  refine ⟨encodesF3_jumpOn cond, fun addr s => ⟨_, exec_jumpOn cond addr s, ?_⟩⟩
  by_cases h : condFlag cond s.flags = condValue cond
  · rw [if_pos h, State.jumpIf_true (s := s.advance 3) (cond_eq_true h)]
    exact jumps_setPC addr s
  · rw [if_neg h, State.jumpIf_false (s := s.advance 3) (cond_eq_false h)]
    exact moves_advance 3 s

theorem callsWhen_callOn (cond : Cond) :
    CallsWhen (0xC4 + 8 * cond.code.toNat) (callOn cond) (condFlag cond) (condValue cond) := by
  refine ⟨encodesF3_callOn cond, fun addr s => ⟨_, exec_callOn cond addr s, ?_⟩⟩
  by_cases h : condFlag cond s.flags = condValue cond
  · rw [if_pos h, State.callIf_true (s := s.advance 3) (cond_eq_true h)]
    exact calls_call addr s
  · rw [if_neg h, State.callIf_false (s := s.advance 3) (cond_eq_false h)]
    exact moves_advance 3 s

theorem returnsWhen_returnOn (cond : Cond) :
    ReturnsWhen (0xC0 + 8 * cond.code.toNat) (returnOn cond) (condFlag cond) (condValue cond) := by
  refine ⟨encodesF1_returnOn cond, fun s => ⟨_, exec_returnOn cond s, ?_⟩⟩
  by_cases h : condFlag cond s.flags = condValue cond
  · rw [if_pos h, State.returnIf_true (s := s.advance 1) (cond_eq_true h)]
    exact returns_ret s
  · rw [if_neg h, State.returnIf_false (s := s.advance 1) (cond_eq_false h)]
    exact moves_advance 1 s

/-! ### The way back (44_control_transfer.md R234, 60_exceptions.md R318) -/

/-- RET joins the two bytes that a push took apart. -/
theorem returnsTo_of_pushes {back : Word} {s t : State} (h : Pushes back.toNat s t) : ReturnsTo back s t := by
  obtain ⟨hhigh, hlow, hsp⟩ := h
  intro u husp hulow huhigh
  have htop : t.sp + 1 = s.sp - 1 := by bv_omega
  refine ⟨_, rfl, ?_, ?_, rfl⟩
  · apply BitVec.eq_of_toNat_eq
    calc u.popValue.toNat = topOfStack u := popValue_toNat u
      _ = back.toNat / 256 * 256 + back.toNat % 256 := by
        rw [topOfStack, husp, huhigh, hulow, htop, hsp, hhigh, hlow]
      _ = back.toNat := Nat.div_add_mod' _ _
  · show u.sp + 2 = s.sp
    bv_omega

/-! ### The obligations -/

/-- Settles O46: a jump taken is JMP, and one not taken only moves PC on. -/
theorem conditionalJumpsTestOneFlag : Obligations.ConditionalJumpsTestOneFlag :=
  ⟨jumpsWhen_jumpOn .NZ, jumpsWhen_jumpOn .Z, jumpsWhen_jumpOn .NC, jumpsWhen_jumpOn .C, jumpsWhen_jumpOn .PO,
    jumpsWhen_jumpOn .PE, jumpsWhen_jumpOn .P, jumpsWhen_jumpOn .M⟩

/-- Settles O47: PC is moved on before it is pushed, so it is the return address of both. -/
theorem callsPushTheReturnAddress : Obligations.CallsPushTheReturnAddress := by
  refine ⟨⟨encodesF3_of_encode (fun _ => rfl) fun _ => rfl, fun addr s => ⟨_, rfl, calls_call addr s⟩⟩,
    fun n => ⟨encodesF1_of_encode rfl ?_, fun s => ⟨_, rfl, calls_rst n s⟩⟩⟩
  fin_cases n <;> rfl

/-- Settles O48: a call taken is CALL, and one not taken only moves PC on. -/
theorem conditionalCallsTestOneFlag : Obligations.ConditionalCallsTestOneFlag :=
  ⟨callsWhen_callOn .NZ, callsWhen_callOn .Z, callsWhen_callOn .NC, callsWhen_callOn .C, callsWhen_callOn .PO,
    callsWhen_callOn .PE, callsWhen_callOn .P, callsWhen_callOn .M⟩

/-- Settles O49: a return taken is RET, and one not taken only moves PC on. -/
theorem returnsPopTheProgramCounter : Obligations.ReturnsPopTheProgramCounter :=
  ⟨⟨encodesF1_of_encode rfl rfl, fun s => ⟨_, rfl, returns_ret s⟩⟩,
    returnsWhen_returnOn .NZ, returnsWhen_returnOn .Z, returnsWhen_returnOn .NC, returnsWhen_returnOn .C,
    returnsWhen_returnOn .PO, returnsWhen_returnOn .PE, returnsWhen_returnOn .P, returnsWhen_returnOn .M⟩

/-- Settles O50: CALL, RST and acceptance all push the address to come back to. -/
theorem returnUndoesACall : Obligations.ReturnUndoesACall :=
  ⟨fun addr s => ⟨_, rfl, returnsTo_of_pushes (calls_call addr s).1⟩,
    fun n s => ⟨_, rfl, returnsTo_of_pushes (calls_rst n s).1⟩,
    fun n s => returnsTo_of_pushes (pushes_acceptInterrupt s n)⟩

/-- Settles O45: the write of PC is the only one. -/
theorem jumpsGoToTheirTarget : Obligations.JumpsGoToTheirTarget :=
  ⟨⟨encodesF3_of_encode (fun _ => rfl) fun _ => rfl, fun addr s => ⟨_, rfl, jumps_setPC addr s⟩⟩,
    encodesF1_of_encode rfl rfl, fun s => ⟨s.setPC s.hl, rfl, s.hl_toNat, (jumps_setPC s.hl s).2⟩⟩

end Sys2Proof.Machine
end

section
/-! SUPPORT. The stack and the PSW. The flag byte is the five flags put one after the other below three zero bits
(`Flags.pack_eq_concat`). A push followed by the pop of the same operand writes back what was read: both pairs of
instructions leave the one state in which only PC and the two cells below SP differ (`State.pushPop`). With them the
obligations O51 to O55. -/

namespace Sys2Proof.Machine

open Sys2Proof.Spec

/-! ### The flag byte (45_stack.md R253 to R255) -/

theorem Flags.pack_eq_concat (f : Flags) :
    f.pack = (((((0#3).concat f.ac).concat f.cy).concat f.p).concat f.s).concat f.z := rfl

theorem Flags.pack_toNat (f : Flags) : f.pack.toNat = flagByte f := by
  simp only [Flags.pack_eq_concat, BitVec.toNat_concat, BitVec.toNat_zero, flagByte]
  omega

@[simp] theorem Flags.unpack_pack (f : Flags) : Flags.unpack f.pack = f := by
  simp [Flags.unpack, Flags.pack_eq_concat, BitVec.getElem_concat]

/-- Each flag is a binary digit, so the flag byte of the flags taken from a byte is its five low digits. -/
theorem flagByte_unpack (v : Byte) : flagByte (Flags.unpack v) = v.toNat % 32 := by
  simp only [flagByte, Flags.unpack, BitVec.getElem_eq_testBit_toNat, Nat.toNat_testBit]
  omega

/-! ### What is pushed and popped, as numbers (R251, R252, R256) -/

theorem getStackPair_toNat (s : State) (p : StackPair) : (s.getStackPair p).toNat = pairValue s (stackPair p) := by
  cases p with
  | BC => exact s.bc_toNat
  | DE => exact s.de_toNat
  | HL => exact s.hl_toNat

/-- The word PUSH PSW pushes: A above the flag byte (R256). -/
def State.psw (s : State) : Word := joinBytes s.a s.flags.pack

theorem psw_toNat (s : State) : s.psw.toNat = s.a.toNat * 256 + flagByte s.flags := by
  rw [State.psw, joinBytes_toNat, Flags.pack_toNat]

@[simp] theorem State.getStackPair_advance (s : State) (n : Nat) (p : StackPair) :
    (s.advance n).getStackPair p = s.getStackPair p := by
  cases p <;> rfl

/-- SP and the cells at it do not depend on PC. -/
@[simp] theorem State.popValue_advance (s : State) (n : Nat) : (s.advance n).popValue = s.popValue := by
  simp [State.popValue, State.readWord]

theorem loByte_popValue (s : State) : loByte s.popValue = s.readByte s.sp := loByte_joinBytes _ _

theorem hiByte_popValue (s : State) : hiByte s.popValue = s.readByte (s.sp + 1) := hiByte_joinBytes _ _

theorem pushes_push16_advance (s : State) (n : Nat) {w : Word} {v : Nat} (hv : w.toNat = v) :
    Pushes v s ((s.advance n).push16 w) :=
  hv ▸ pushes_push16 (s.advance n) w

/-! ### What each instruction does, and that it changes nothing else (R251, R252, R256 to R259) -/

theorem exec_push (p : StackPair) (s : State) :
    ∃ t, exec (.push p) s = .next t ∧ Pushes (pairValue s (stackPair p)) s t ∧ t.pc = s.pc + 1 ∧
      t.flags = s.flags ∧ RestBut [] [s.sp - 1, s.sp - 2] s t :=
  ⟨_, rfl, pushes_push16_advance s 1 (getStackPair_toNat (s.advance 1) p), rfl, rfl,
    restBut_of_exec (i := .push p) rfl rfl⟩

theorem exec_pop (p : StackPair) (s : State) :
    ∃ t, exec (.pop p) s = .next t ∧ pairValue t (stackPair p) = topOfStack s ∧ t.sp = s.sp + 2 ∧
      t.pc = s.pc + 1 ∧ t.flags = s.flags ∧ RestBut (pairRegs (stackPair p)) [] s t := by
  refine ⟨_, rfl, ?_, State.setStackPair_sp _ p _, State.setStackPair_pc _ p _, State.setStackPair_flags _ p _,
    restBut_of_exec (i := .pop p) rfl rfl⟩
  rw [State.setStackPair_eq_setPair, pairValue_setPair_same]
  exact popValue_toNat s

theorem exec_pushPsw (s : State) :
    ∃ t, exec .pushPsw s = .next t ∧ Pushes (s.a.toNat * 256 + flagByte s.flags) s t ∧ t.pc = s.pc + 1 ∧
      t.flags = s.flags ∧ RestBut [] [s.sp - 1, s.sp - 2] s t :=
  ⟨_, rfl, pushes_push16_advance s 1 (psw_toNat s), rfl, rfl, restBut_of_exec (i := .pushPsw) rfl rfl⟩

theorem exec_popPsw (s : State) :
    ∃ t, exec .popPsw s = .next t ∧ t.a = s.readByte (s.sp + 1) ∧
      flagByte t.flags = (s.readByte s.sp).toNat % 32 ∧ t.sp = s.sp + 2 ∧ t.pc = s.pc + 1 ∧ RestBut [.A] [] s t := by
  refine ⟨_, rfl, hiByte_popValue s, ?_, rfl, rfl, restBut_of_exec (i := .popPsw) rfl rfl⟩
  exact (flagByte_unpack _).trans (by rw [State.popValue_advance, loByte_popValue])

theorem exec_xthl (s : State) :
    ∃ t, exec .xthl s = .next t ∧ t.l = s.readByte s.sp ∧ t.h = s.readByte (s.sp + 1) ∧
      t.readByte s.sp = s.l ∧ t.readByte (s.sp + 1) = s.h ∧ Moves 1 [.H, .L] [s.sp, s.sp + 1] s t :=
  ⟨_, rfl, loByte_popValue s, hiByte_popValue s,
    (State.readByte_writeWord_low (s.advance 1) s.sp s.hl).trans (loByte_joinBytes s.h s.l),
    (State.readByte_writeWord_high (s.advance 1) s.sp s.hl).trans (hiByte_joinBytes s.h s.l),
    moves_of_exec .xthl rfl rfl rfl⟩

theorem exec_sphl (s : State) :
    ∃ t, exec .sphl s = .next t ∧ t.sp.toNat = pairValue s .HL ∧ t.pc = s.pc + 1 ∧ t.flags = s.flags ∧
      RestBut [] [] s t :=
  ⟨_, rfl, s.hl_toNat, rfl, rfl, restBut_of_exec (i := .sphl) rfl rfl⟩

/-! ### A push and the pop of the same operand (R260) -/

/-- The state that a push of the word and a pop leave where the popped word is written to nothing. -/
def State.pushPop (s : State) (w : Word) : State := (((s.advance 1).push16 w).advance 1).dropTop

theorem State.pushPop_sp (s : State) (w : Word) : (s.pushPop w).sp = s.sp := by
  rw [State.pushPop, State.dropTop_sp, State.advance_sp, ← State.dropTop_sp, State.sp_dropTop_push16, State.advance_sp]

theorem State.pushPop_pc (s : State) (w : Word) : (s.pushPop w).pc = s.pc + 2 := BitVec.add_assoc s.pc 1 1

theorem State.pushPop_flags (s : State) (w : Word) : (s.pushPop w).flags = s.flags := by simp [State.pushPop]

/-- The pop changes no cell, so memory is as the push left it. -/
theorem State.readByte_pushPop (s : State) (w x : Word) : (s.pushPop w).readByte x = (s.push16 w).readByte x := rfl

theorem restBut_pushPop (s : State) (w : Word) : RestBut [] [s.sp - 1, s.sp - 2] s (s.pushPop w) := by
  have hpush : Writes .pushPsw s (s.push16 w) := .push16 (List.Subset.refl _) rfl w
  exact ⟨fun r _ => by simp [State.pushPop], hpush.sameMemoryBut, hpush.sameControl rfl, hpush.samePorts rfl⟩

theorem moves_pushPop (s : State) (w : Word) : Moves 2 [] [s.sp - 1, s.sp - 2] s (s.pushPop w) :=
  ⟨s.pushPop_pc w, s.pushPop_sp w, s.pushPop_flags w, restBut_pushPop s w⟩

theorem cells_pushPop (s : State) (w : Word) :
    ((s.pushPop w).readByte (s.sp - 1)).toNat * 256 + ((s.pushPop w).readByte (s.sp - 2)).toNat = w.toNat := by
  obtain ⟨hhigh, hlow, -⟩ := pushes_push16 s w
  rw [State.readByte_pushPop, State.readByte_pushPop, hhigh, hlow, Nat.div_add_mod']

/-- The push and then the pop complete: `v` stands in the two cells below SP, and all else but PC is as it was. -/
def PopUndoes (push pop : Instr) (v : Nat) (s : State) : Prop :=
  ∃ t, execAll [push, pop] s = some t ∧
    (t.readByte (s.sp - 1)).toNat * 256 + (t.readByte (s.sp - 2)).toNat = v ∧ Moves 2 [] [s.sp - 1, s.sp - 2] s t

/-- The pop finds the word that was pushed; where writing it, by `put`, changes nothing, the pop undoes the push. -/
theorem popUndoes_of_exec {push pop : Instr} {put : State → Word → State} {s : State} {w : Word}
    (hpush : exec push s = .next ((s.advance 1).push16 w))
    (hpop : ∀ u, exec pop u = .next (put (u.advance 1).dropTop (u.advance 1).popValue))
    (hput : put (s.pushPop w) w = s.pushPop w) : PopUndoes push pop w.toNat s := by
  refine ⟨s.pushPop w, ?_, cells_pushPop s w, moves_pushPop s w⟩
  have hexec : execAll [push, pop] s = some (put (s.pushPop w) (((s.advance 1).push16 w).advance 1).popValue) := by
    simp only [execAll, hpush, hpop, State.pushPop]
  rw [hexec, State.popValue_advance, State.popValue_push16, hput]

/-- Writing back the word a pair holds changes nothing. -/
theorem State.setStackPair_getStackPair (s : State) (p : StackPair) : s.setStackPair p (s.getStackPair p) = s := by
  cases p <;> simp [State.setStackPair, State.getStackPair, State.setBC, State.setDE, State.setHL, State.bc, State.de,
    State.hl]

theorem State.getStackPair_pushPop (s : State) (w : Word) (p : StackPair) :
    (s.pushPop w).getStackPair p = s.getStackPair p := by
  cases p <;> simp [State.pushPop, State.getStackPair, State.bc, State.de, State.hl]

theorem popUndoes_push (p : StackPair) (s : State) :
    PopUndoes (.push p) (.pop p) (pairValue s (stackPair p)) s := by
  rw [← getStackPair_toNat]
  refine popUndoes_of_exec (put := (State.setStackPair · p)) ?_ (fun _ => rfl) ?_
  · rw [← State.getStackPair_advance s 1]
    rfl
  · have hback := (s.pushPop (s.getStackPair p)).setStackPair_getStackPair p
    rwa [State.getStackPair_pushPop] at hback

/-- What POP PSW writes of the word it pops (R257). -/
def State.setPsw (s : State) (w : Word) : State :=
  (s.setFlags (Flags.unpack (loByte w))).setReg .A (hiByte w)

/-- Writing back the word of A and the flags changes nothing. -/
theorem State.setPsw_psw (s : State) : s.setPsw s.psw = s := by
  rw [State.setPsw, State.psw, loByte_joinBytes, hiByte_joinBytes, Flags.unpack_pack]
  rfl

theorem State.psw_pushPop (s : State) (w : Word) : (s.pushPop w).psw = s.psw := by
  simp [State.psw, State.pushPop]

theorem popUndoes_pushPsw (s : State) : PopUndoes .pushPsw .popPsw (s.a.toNat * 256 + flagByte s.flags) s := by
  rw [← psw_toNat]
  refine popUndoes_of_exec (put := State.setPsw) rfl (fun _ => rfl) ?_
  have hback := (s.pushPop s.psw).setPsw_psw
  rwa [State.psw_pushPop] at hback

/-! ### The obligations -/

/-- Settles O51: the pushed word is the pair, and a pair reads as the word popped into it. -/
theorem pairsArePushedAndPopped : Obligations.PairsArePushedAndPopped := by
  refine fun p => ⟨⟨encodesF1_of_encode rfl ?push, exec_push p⟩, encodesF1_of_encode rfl ?pop, exec_pop p⟩
  case push | pop => cases p <;> rfl

/-- Settles O53: the pushed word is A above the flag byte, and unpacking takes the five low bits of the popped one. -/
theorem pswIsPushedAndPopped : Obligations.PswIsPushedAndPopped :=
  ⟨⟨encodesF1_of_encode rfl rfl, exec_pushPsw⟩, encodesF1_of_encode rfl rfl, exec_popPsw⟩

/-- Settles O54: XTHL writes to the two cells the halves of the old HL, and to HL the halves of the word read before. -/
theorem hlExchangesWithAndCopiesToTheStack : Obligations.HlExchangesWithAndCopiesToTheStack :=
  ⟨⟨encodesF1_of_encode rfl rfl, exec_xthl⟩, encodesF1_of_encode rfl rfl, exec_sphl⟩

/-- Settles O55: the pop finds the word that was pushed, and writing it back to where it came from is no change. -/
theorem popUndoesAPush : Obligations.PopUndoesAPush :=
  ⟨popUndoes_push, popUndoes_pushPsw⟩

/-- Settles O52: the flag byte is a number of five binary digits, and unpacking picks them out one by one. -/
theorem flagByteIsPackedAndUnpacked : Obligations.FlagByteIsPackedAndUnpacked :=
  ⟨fun f => ⟨f.pack_toNat, f.unpack_pack⟩,
    fun v => ⟨rfl, rfl, rfl, rfl, rfl, (Flags.pack_toNat _).trans (flagByte_unpack v)⟩⟩

end Sys2Proof.Machine
end

section
/-! SUPPORT. Miscellaneous instructions. XCHG, NOP and CMA only move, and CMC and STC compute Carry alone, so their
frames are those of the tables. DI, EI and HLT write one latch; what the next boundary does follows from the branch of
`step` that reads it. With them the obligations O56 to O59. -/

namespace Sys2Proof.Machine

open Sys2Proof.Spec

/-! ### XCHG, NOP, CMA, CMC and STC, and that they change nothing else (46_misc.md R271 to R274, R278) -/

/-- Both pairs are read before either is written. -/
theorem exec_xchg (s : State) :
    ∃ t, exec .xchg s = .next t ∧ t.d = s.h ∧ t.e = s.l ∧ t.h = s.d ∧ t.l = s.e ∧ Moves 1 [.D, .E, .H, .L] [] s t :=
  ⟨_, rfl, hiByte_joinBytes _ _, loByte_joinBytes _ _, hiByte_joinBytes _ _, loByte_joinBytes _ _,
    moves_of_exec .xchg rfl rfl rfl⟩

theorem exec_nop (s : State) : ∃ t, exec .nop s = .next t ∧ Moves 1 [] [] s t :=
  ⟨_, rfl, moves_advance 1 s⟩

theorem exec_cma (s : State) :
    ∃ t, exec .cma s = .next t ∧ t.a.toNat = 255 - s.a.toNat ∧ Moves 1 [.A] [] s t :=
  ⟨_, rfl, BitVec.toNat_not, moves_of_exec .cma rfl rfl rfl⟩

theorem cma_cma_restores_a (s : State) : ∃ t, execAll [.cma, .cma] s = some t ∧ t.a = s.a :=
  ⟨_, rfl, BitVec.not_not⟩

theorem exec_cmc (s : State) :
    ∃ t, exec .cmc s = .next t ∧ t.flags.cy = !s.flags.cy ∧ t.flags.z = s.flags.z ∧ t.flags.s = s.flags.s ∧
      t.flags.p = s.flags.p ∧ Computes 1 [] [] s t :=
  ⟨_, rfl, rfl, rfl, rfl, rfl, computes_of_exec .cmc rfl rfl rfl rfl⟩

theorem exec_stc (s : State) :
    ∃ t, exec .stc s = .next t ∧ t.flags.cy = true ∧ t.flags.z = s.flags.z ∧ t.flags.s = s.flags.s ∧
      t.flags.p = s.flags.p ∧ Computes 1 [] [] s t :=
  ⟨_, rfl, rfl, rfl, rfl, rfl, computes_of_exec .stc rfl rfl rfl rfl⟩

/-! ### The latches INTE and HALTED (46_misc.md R275 to R277) -/

theorem exec_di (s : State) : exec .di s = .next { s with pc := s.pc + 1, inte := false } := rfl

/-- EI delays no request: `EI_DELAY` is 0 (92_eei_decisions.md D10). -/
theorem exec_ei (s : State) : exec .ei s = .next { s with pc := s.pc + 1, inte := true } := rfl

theorem exec_hlt (s : State) : exec .hlt s = .next { s with pc := s.pc + 1, halted := true } := rfl

/-- Using up the source's choice leaves SP alone, and PC, which is what acceptance pushes. -/
theorem pushes_afterRequest_acceptInterrupt (s : State) (n : VectorIndex) :
    Pushes s.pc.toNat s (s.afterRequest.acceptInterrupt n) := by
  have hpush := pushes_acceptInterrupt s.afterRequest n
  rwa [Pushes, State.afterRequest_pc, State.afterRequest_sp] at hpush

/-- A request made at a boundary of a running machine is accepted by the step from there (60_exceptions.md R316). -/
theorem step_accepts_request {s : State} {n : VectorIndex} (hf : s.fault = false) (hh : s.halted = false)
    (hr : s.request = some n) :
    ∃ u, step s = .next u ∧ Pushes s.pc.toNat s u ∧ u.pc.toNat = 8 * n.val ∧ u.inte = false :=
  ⟨_, step_of_request hf hh hr, pushes_afterRequest_acceptInterrupt s n, vectorAddress_toNat n,
    State.acceptInterrupt_inte _ n⟩

/-! ### The obligations -/

/-- Settles O56: XCHG reads both pairs before it writes them, and CMC and STC write no flag but Carry. -/
theorem xchgNopAndTheCarryInstructions : Obligations.XchgNopAndTheCarryInstructions :=
  ⟨⟨encodesF1_of_encode rfl rfl, exec_xchg⟩, ⟨encodesF1_of_encode rfl rfl, exec_nop⟩,
    ⟨encodesF1_of_encode rfl rfl, exec_cmc⟩, encodesF1_of_encode rfl rfl, exec_stc⟩

/-- Settles O57: the complement of a byte is 255 less it, and the complement of the complement is the byte. -/
theorem cmaComplementsTheAccumulator : Obligations.CmaComplementsTheAccumulator :=
  ⟨⟨encodesF1_of_encode rfl rfl, exec_cma⟩, cma_cma_restores_a⟩

/-- Settles O58: the boundary reads the INTE just written, and EI puts no choice of none before the source's own. -/
theorem interruptEnableIsWrittenAtOnce : Obligations.InterruptEnableIsWrittenAtOnce :=
  ⟨⟨encodesF1_of_encode rfl rfl, fun s => ⟨_, exec_di s, rfl, State.request_of_disabled rfl⟩⟩,
    encodesF1_of_encode rfl rfl,
    fun s => ⟨_, exec_ei s, rfl, fun _ hh hf hr => step_accepts_request hf hh hr⟩⟩

/-- Settles O59: `step` looks at HALTED before the interrupt source's choice, so no choice matters. -/
theorem hltEndsTheRun : Obligations.HltEndsTheRun :=
  ⟨encodesF1_of_encode rfl rfl, fun s => ⟨_, exec_hlt s, rfl, fun hf _ _ => step_of_halted hf rfl⟩⟩

end Sys2Proof.Machine
end

section
/-! SUPPORT. Ports. IN and OUT are the only writes of the port lists, and what each leaves alone follows from the tables
of its writes. With them the obligations O23 and O60. -/

namespace Sys2Proof.Machine

open Sys2Proof.Spec

/-! ### What the peripheral answers (47_io.md R291) -/

theorem State.portAnswer_nil {s : State} (h : s.portIn = []) (port : Byte) :
    s.portAnswer port = Config.portRead port s.draws := by
  rw [State.portAnswer, h, List.headD_nil]

theorem State.portAnswer_cons {s : State} {v : Byte} {later : List Byte} (h : s.portIn = v :: later) (port : Byte) :
    s.portAnswer port = v := by
  rw [State.portAnswer, h, List.headD_cons]

/-! ### IN and OUT, and that they change nothing else (R292, R293) -/

/-- PC has no part in the answer, so moving PC on first does not change it. -/
theorem exec_inp (port : Byte) (s : State) :
    exec (.inp port) s = .next (((s.advance 2).setReg .A (s.portAnswer port)).afterPortRead) := rfl

theorem exec_outp (port : Byte) (s : State) :
    exec (.outp port) s = .next ((s.advance 2).portWrite port s.a) := rfl

/-! ### The obligations -/

/-- Settles O23: the exception writes no port list; of an instruction's listed writes only `portWrite` makes an event,
only `afterPortRead` a draw, and none uses up a choice. -/
theorem portsAreReachedOnlyByInAndOut : Obligations.PortsAreReachedOnlyByInAndOut := by
  intro i s t h
  obtain ⟨-, rfl⟩ | ⟨-, hw⟩ := exec_cases h
  · exact ⟨fun _ => rfl, fun _ => ⟨rfl, rfl⟩, rfl, rfl⟩
  · exact ⟨hw.portOut_eq, hw.portIn_eq, hw.sameChoices⟩

/-- Settles O60: the port lists and PC are as the equations of IN and OUT say; the registers and memory are kept by the
tables of their writes. -/
theorem portsTransferTheAccumulator : Obligations.PortsTransferTheAccumulator := by
  refine ⟨⟨encodesF2_of_encode (fun _ => rfl) fun _ => rfl, fun port s => ?inp⟩,
    encodesF2_of_encode (fun _ => rfl) fun _ => rfl, fun port s => ?outp⟩
  case inp =>
    refine ⟨_, exec_inp port s, ?answer, rfl, rfl, rfl, ⟨rfl, rfl⟩, rfl, rfl, rfl,
      registersAreWrittenOnlyAsNamed (.inp port) s _ (exec_inp port s),
      memoryIsStoredToOnlyAsTabled (.inp port) s _ (exec_inp port s), ⟨rfl, rfl, rfl, rfl⟩⟩
    cases h : s.portIn with
    | nil => exact State.portAnswer_nil h port
    | cons v later => exact State.portAnswer_cons h port
  case outp =>
    exact ⟨_, exec_outp port s, rfl, rfl, rfl, ⟨rfl, rfl⟩, rfl, rfl, rfl,
      registersAreWrittenOnlyAsNamed (.outp port) s _ (exec_outp port s),
      memoryIsStoredToOnlyAsTabled (.outp port) s _ (exec_outp port s), ⟨rfl, rfl, rfl, rfl⟩⟩

end Sys2Proof.Machine
end

section
/-! SUPPORT. The exception and the interrupt source. A faulting row and a step at one of the thirteen bytes raise the
one exception with the same byte. Acceptance pushes PC on the state in which the source's choice is used up. While INTE
is 0 nothing reads the choices, and every instruction carries them along (`exec_withChoices`). With them the obligations
O8 to O11. -/

namespace Sys2Proof.Machine

open Sys2Proof.Spec

/-! ### The faulting rows (48_unimplemented.md R301 to R305) -/

theorem opcode_undoc00 (n : Fin 8) : (Instr.undoc00 n).opcode = BitVec.ofNat 8 (8 * n.val) := by
  fin_cases n <;> rfl

theorem opcode_undocXD (p : Fin 4) : (Instr.undocXD p).opcode = BitVec.ofNat 8 (0xCD + 16 * p.val) := by
  fin_cases p <;> rfl

/-- A faulting row has no operand byte (30_encoding.md R90). -/
theorem encodesF1_of_faultingRow {i : Instr} {op : Nat} (hrow : isFaultingRow i = true) (hi : i.WellFormed = true)
    (hop : i.opcode = BitVec.ofNat 8 op) : EncodesF1 op i := by
  refine encodesF1_of_encode hi ?_
  rw [← hop]
  cases i
  case daa | undoc00 | undocCB | undocD9 | undocXD => rfl
  all_goals cases hrow

theorem exec_raises_opcode {i : Instr} {op : Nat} (hrow : isFaultingRow i = true)
    (hop : i.opcode = BitVec.ofNat 8 op) (s : State) :
    exec i s = .next (s.raiseUnimplemented (BitVec.ofNat 8 op)) := by
  rw [exec_raises hrow, hop]

/-! ### A step at one of the thirteen bytes (60_exceptions.md R310) -/

/-- The byte at PC decodes to the faulting row whose opcode byte it is. -/
theorem executorStep_raises {s : State} (hop : s.readByte s.pc ∈ faultingBytes) :
    s.executorStep = .next (s.raiseUnimplemented (s.readByte s.pc)) := by
  obtain ⟨i, hdecode, hexec⟩ := executorStep_eq_exec s
  rw [State.fetch_eq] at hdecode
  obtain ⟨hrow, hbyte⟩ :=
    holds_of_decode (fun _ => decodeOpcode_of_unimplemented ((mem_unimplemented_iff _).mpr hop)) hdecode
  rw [hexec, exec_raises hrow, hbyte]

@[simp] theorem State.getReg_afterRequest (s : State) (r : Reg) : s.afterRequest.getReg r = s.getReg r :=
  State.getReg_congr s.afterRequest_a s.afterRequest_b s.afterRequest_c s.afterRequest_d s.afterRequest_e
    s.afterRequest_h s.afterRequest_l r

theorem step_raises {s : State} (hf : s.fault = false) (hh : s.halted = false) (hr : s.request = none)
    (hop : s.readByte s.pc ∈ faultingBytes) :
    step s = .next (s.afterRequest.raiseUnimplemented (s.readByte s.pc)) := by
  rw [step_of_no_request hf hh hr, executorStep_raises (by simpa using hop), State.readByte_afterRequest,
    State.afterRequest_pc]

/-! ### Interrupt acceptance (60_exceptions.md R316, R317) -/

theorem State.afterRequest_of_enabled {s : State} (h : s.inte = true) :
    s.afterRequest = { s with irqs := s.irqs.tail, choices := s.choices + 1 } := if_pos h

theorem sameMemoryBut_acceptInterrupt (s : State) (n : VectorIndex) :
    SameMemoryBut [s.sp - 1, s.sp - 2] s (s.acceptInterrupt n) := by
  intro x hx
  obtain ⟨hhigh, hlow⟩ : x ≠ s.sp - 1 ∧ x ≠ s.sp - 2 := by simpa using hx
  rw [State.readByte_acceptInterrupt, if_neg hhigh, if_neg hlow]

/-! ### The choices are carried along and not read while INTE is 0 (10_state.md R36, 60_exceptions.md R315) -/

/-- The state with other choices of the interrupt source. -/
def State.withChoices (s : State) (listed : List (Option VectorIndex)) (made : Nat) : State :=
  { s with irqs := listed, choices := made }

section
variable (s : State) (listed : List (Option VectorIndex)) (made : Nat)

theorem State.setReg_withChoices (r : Reg) (v : Byte) :
    (s.withChoices listed made).setReg r v = (s.setReg r v).withChoices listed made := by
  cases r <;> rfl

theorem State.countReg_withChoices (r : Reg) (v : Byte) :
    (s.withChoices listed made).countReg r v = (s.countReg r v).withChoices listed made := by
  cases r <;> rfl

theorem State.setPair_withChoices (p : Pair) (w : Word) :
    (s.withChoices listed made).setPair p w = (s.setPair p w).withChoices listed made := by
  cases p <;> rfl

theorem State.setStackPair_withChoices (p : StackPair) (w : Word) :
    (s.withChoices listed made).setStackPair p w = (s.setStackPair p w).withChoices listed made := by
  cases p <;> rfl

/-- No condition reads the choices, so a conditional transfer is taken with them or without. -/
theorem State.jumpIf_withChoices (cond : Cond) (w : Word) :
    (s.withChoices listed made).jumpIf cond w = (s.jumpIf cond w).withChoices listed made :=
  (apply_ite (State.withChoices · listed made) (s.flags.cond cond = true) (s.setPC w) s).symm

theorem State.callIf_withChoices (cond : Cond) (w : Word) :
    (s.withChoices listed made).callIf cond w = (s.callIf cond w).withChoices listed made :=
  (apply_ite (State.withChoices · listed made) (s.flags.cond cond = true) (s.callTo w) s).symm

theorem State.returnIf_withChoices (cond : Cond) :
    (s.withChoices listed made).returnIf cond = (s.returnIf cond).withChoices listed made :=
  (apply_ite (State.withChoices · listed made) (s.flags.cond cond = true) s.returnFromCall s).symm
end

/-- Every instruction carries the choices along, EI too, which on this hardware puts none before them. Where the write
is to a register or pair that the instruction names, or depends on a condition, this is the operation's own lemma;
elsewhere both sides compute the same fields. -/
theorem exec_withChoices {i : Instr} {s t : State} (h : exec i s = .next t) (listed : List (Option VectorIndex))
    (made : Nat) : exec i (s.withChoices listed made) = .next (t.withChoices listed made) := by
  cases i <;> cases h
  case movRR | movRM => exact congrArg _ (State.setReg_withChoices (s.advance 1) listed made _ _)
  case mviR => exact congrArg _ (State.setReg_withChoices (s.advance 2) listed made _ _)
  case inrR | dcrR => exact congrArg _ (State.countReg_withChoices (s.advance 1) listed made _ _)
  case inx | dcx => exact congrArg _ (State.setPair_withChoices (s.advance 1) listed made _ _)
  case lxi => exact congrArg _ (State.setPair_withChoices (s.advance 3) listed made _ _)
  case pop => exact congrArg _ (State.setStackPair_withChoices (s.advance 1).dropTop listed made _ _)
  case jnz | jz | jnc | jc | jpo | jpe | jp | jm =>
    exact congrArg _ (State.jumpIf_withChoices (s.advance 3) listed made _ _)
  case cnz | cz | cnc | cc | cpo | cpe | cp | cm =>
    exact congrArg _ (State.callIf_withChoices (s.advance 3) listed made _ _)
  case rnz | rz | rnc | rc | rpo | rpe | rp | rm =>
    exact congrArg _ (State.returnIf_withChoices (s.advance 1) listed made _)
  all_goals rfl

theorem State.fetch_withChoices (s : State) (listed : List (Option VectorIndex)) (made : Nat) :
    (s.withChoices listed made).fetch = s.fetch := rfl

theorem executorStep_withChoices {s t : State} (h : s.executorStep = .next t) (listed : List (Option VectorIndex))
    (made : Nat) : (s.withChoices listed made).executorStep = .next (t.withChoices listed made) := by
  obtain ⟨i, hdecode, hexec⟩ := executorStep_eq_exec s
  obtain ⟨j, hdecode', hexec'⟩ := executorStep_eq_exec (s.withChoices listed made)
  rw [State.fetch_withChoices, hdecode] at hdecode'
  cases hdecode'
  rw [hexec']
  exact exec_withChoices (hexec ▸ h) listed made

/-! ### The obligations -/

/-- Settles O11: each row's opcode byte is the one stated, and the exception is raised with it. -/
theorem faultingRowsTakeTheException : Obligations.FaultingRowsTakeTheException :=
  ⟨⟨encodesF1_of_faultingRow rfl rfl rfl, encodesF1_of_faultingRow rfl rfl rfl, encodesF1_of_faultingRow rfl rfl rfl,
      fun n hn => encodesF1_of_faultingRow rfl (bne_iff_ne.mpr hn) (opcode_undoc00 n),
      fun p hp => encodesF1_of_faultingRow rfl (bne_iff_ne.mpr hp) (opcode_undocXD p)⟩,
    fun s => ⟨exec_raises_opcode rfl rfl s, exec_raises_opcode rfl rfl s, exec_raises_opcode rfl rfl s,
      fun n => exec_raises_opcode rfl (opcode_undoc00 n) s, fun p => exec_raises_opcode rfl (opcode_undocXD p) s⟩⟩

/-- Settles O10: the exception writes FAULT and the record alone, with PC where it was, and `step` stops at FAULT. -/
theorem faultingByteRaisesTheException : Obligations.FaultingByteRaisesTheException := by
  intro s hf hh hr hop
  refine ⟨_, step_raises hf hh hr hop, rfl, ?record, s.afterRequest_pc, s.afterRequest_sp, s.afterRequest_flags,
    fun r _ => s.getReg_afterRequest r, fun x _ => s.readByte_afterRequest x, s.afterRequest_inte,
    s.afterRequest_halted, s.afterRequest_portOut, s.afterRequest_portIn, s.afterRequest_draws, step_of_fault rfl⟩
  case record => rw [State.raiseUnimplemented_record, State.afterRequest_pc]

/-- Settles O8: a request is the source's choice where INTE is 1, and acceptance pushes PC on the state in which that
choice is used up. -/
theorem interruptAcceptancePushesAndVectors : Obligations.InterruptAcceptancePushesAndVectors := by
  refine ⟨fun s => ?request, fun s n hh hf hr => ?accept⟩
  case request =>
    cases hchoices : s.irqs with
    | nil => rw [State.request, State.nextChoice_nil hchoices]
    | cons choice later => rw [State.request, State.nextChoice_cons hchoices]
  case accept =>
    obtain ⟨hinte, -⟩ := State.request_eq_some_iff.mp hr
    have hstep := step_of_request hf hh hr
    rw [State.afterRequest_of_enabled hinte] at hstep
    exact ⟨_, hstep, pushes_acceptInterrupt _ n, vectorAddress_toNat n, State.acceptInterrupt_inte _ n,
      State.acceptInterrupt_irqs _ n, State.acceptInterrupt_choices _ n, State.acceptInterrupt_flags _ n,
      fun r _ => State.getReg_acceptInterrupt _ n r, sameMemoryBut_acceptInterrupt _ n,
      State.acceptInterrupt_halted _ n, State.acceptInterrupt_fault _ n, State.acceptInterrupt_record _ n,
      State.acceptInterrupt_portOut _ n, State.acceptInterrupt_portIn _ n, State.acceptInterrupt_draws _ n⟩

/-- Settles O9: with INTE 0 a step is the executor's, which carries the choices along; FAULT and HALTED, which stop it,
do not depend on them. -/
theorem disabledCoreIgnoresTheInterruptSource : Obligations.DisabledCoreIgnoresTheInterruptSource := by
  intro s listed made hi
  change step (s.withChoices listed made) = _
  cases hf : s.fault with
  | true =>
    rw [step_of_fault hf]
    exact step_of_fault hf
  | false =>
    cases hh : s.halted with
    | true =>
      rw [step_of_halted hf hh]
      exact step_of_halted hf hh
    | false =>
      obtain ⟨t, ht⟩ := executorStep_completes s
      rw [step_of_disabled hf hh hi, ht]
      exact (step_of_disabled (s := s.withChoices listed made) hf hh hi).trans (executorStep_withChoices ht listed made)

end Sys2Proof.Machine
end

section
/-! SUPPORT. Reset and the load. The load places its image byte by byte, so a cell below or above it reads as before
(`Memory.read_writeList`), and after reset every cell is zero. With them the obligations O14 to O16. -/

namespace Sys2Proof.Machine

/-! ### Reset (70_reset_and_hazards.md R350) -/

theorem State.getReg_reset (r : Reg) : State.reset.getReg r = 0x00 := by
  cases r <;> rfl

theorem State.readByte_reset (x : Word) : State.reset.readByte x = 0x00 := rfl

theorem State.inv_iff {s : State} :
    s.Inv = true ↔ s.memCanonical = true ∧ s.faultRecorded = true ∧ s.oneEnd = true := by
  simp [State.Inv, and_assoc]

/-! ### The load (70_reset_and_hazards.md R353) -/

theorem State.load_eq_some {s : State} {base : Word} {image : List Byte} (h : base.toNat + image.length ≤ 65536) :
    s.load base image = some { s with mem := Memory.writeList s.mem base.toNat image } := if_pos h

theorem State.load_eq_none {s : State} {base : Word} {image : List Byte} (h : 65536 < base.toNat + image.length) :
    s.load base image = none := if_neg (Nat.not_le_of_lt h)

/-- An address inside an image that fits does not wrap. -/
theorem toNat_base_add {base : Word} {len k : Nat} (hfit : base.toNat + len ≤ 65536) (hk : k < len) :
    (base + BitVec.ofNat 16 k).toNat = base.toNat + k := by
  rw [BitVec.toNat_add, BitVec.toNat_ofNat]
  omega

theorem Memory.read_writeList_inside (m : Memory) {image : List Byte} {k : Nat} (hk : k < image.length) (base : Nat) :
    Memory.read (Memory.writeList m base image) (base + k) = image[k] := by
  simp [Memory.read_writeList, hk]

theorem Memory.read_writeList_outside (m : Memory) {image : List Byte} {base y : Nat}
    (hy : y < base ∨ base + image.length ≤ y) : Memory.read (Memory.writeList m base image) y = Memory.read m y := by
  rw [Memory.read_writeList, dif_neg (by omega)]

/-! ### The obligations -/

/-- Settles O14: reset writes each value out, and a memory that lists no cell reads as zero. -/
theorem resetLeavesTheStatedValues : Obligations.ResetLeavesTheStatedValues :=
  ⟨State.getReg_reset, rfl, rfl, rfl, rfl, rfl, rfl, State.readByte_reset⟩

/-- Settles O15: memory lists no cell, and with FAULT 0 the record and the end of the run are as they should be. -/
theorem resetMeetsTheInvariant : Obligations.ResetMeetsTheInvariant :=
  State.inv_iff.mpr ⟨Memory.wf_nil, State.faultRecorded_of_no_fault rfl, State.oneEnd_of_no_fault rfl⟩

/-- Settles O16: an image that fits is written at addresses that do not wrap, on memory that is zero. -/
theorem loadPlacesTheImage : Obligations.LoadPlacesTheImage := by
  refine fun base image => ⟨fun hfit => ?_, State.load_eq_none⟩
  refine ⟨_, State.load_eq_some hfit, fun k hk => ?inside, fun x hx => ?outside, rfl,
    State.load_wf Memory.wf_nil (State.load_eq_some hfit)⟩
  case inside =>
    rw [State.readByte, toNat_base_add hfit hk]
    exact Memory.read_writeList_inside _ hk _
  case outside => exact Memory.read_writeList_outside _ hx

end Sys2Proof.Machine
end
